-- ==== Sys2Proof/Word.lean ====
section
/-!
DEFINITION. The fixed-width words of the block (00_scope.md R9: `uN` is an unsigned N-bit value, `sN` a
two's-complement one). Mathematical `int` values of the spec are Lean's `Int`.
-/

namespace Sys2Proof

/-- u8: one byte of the capture buffer, a command byte or a value byte. -/
abbrev Byte := BitVec 8

/-- u4: a queue index (10_state.md R22). -/
abbrev U4 := BitVec 4

/-- u7: a capture offset or an SX127x register address (R48). -/
abbrev U7 := BitVec 7

/-- u16: the preamble and symbol-timeout shadows (R31, R35). -/
abbrev U16 := BitVec 16

/-- u32: a timestamp in microseconds, wrapping (R38). -/
abbrev U32 := BitVec 32

/-- s32: a window correction, read with `BitVec.toInt` (R39, R165). -/
abbrev S32 := BitVec 32

/-- The 41-bit event word (30_encoding.md R85). -/
abbrev EventWord := BitVec 41

/-- The 6-bit key `stage ++ input` of the state machine (30_encoding.md R88). -/
abbrev Key := BitVec 6

end Sys2Proof
end

