-- ==== Sys2Proof/Syntax.lean ====
section
/-!
DEFINITION. The block's operations as syntax: one constructor of `Instr` for each row of opcode_table.json
(30_encoding.md R93), and the names they range over: agents, stages, state-machine inputs.
-/

namespace Sys2Proof

/-- The agents that take steps of the block (00_scope.md R5). The DMA and the CLOCK are the environment's: a DMA
write is a move of its own and the clock's value arrives inside an event word. -/
inductive Agent where
  | consumer
  | prodSpi
  | prodDio0
  | prodDio1
deriving DecidableEq, Repr

/-- The state machine's stages, in the order of their codes (10_state.md R36, 30_encoding.md R86). -/
inductive Stage where
  | idle
  | transmitting
  | beforeRx1
  | inRx1
  | beforeRx2
  | inRx2
  | awaitingData
deriving DecidableEq, Repr

/-- The five kinds of state-machine input, in the order of their codes (30_encoding.md R88). -/
inductive InputKind where
  | txStart
  | rxStart
  | done
  | timeout
  | fifoLen
deriving DecidableEq, Repr

/-- A state-machine input with its operands: each carries a timestamp, and FIFO_LEN the length N in 0..126
(44_timing_fsm.md R136). -/
inductive Input where
  | txStart (ts : U32)
  | rxStart (ts : U32)
  | done (ts : U32)
  | timeout (ts : U32)
  | fifoLen (ts : U32) (n : U7)
deriving DecidableEq, Repr

/-- One constructor per row of opcode_table.json. Operands are the row's fields, and beside them the event's
timestamp `ts` (and the length `n`) where the operation's rule lists it among its operands. -/
inductive Instr where
  -- event rows: the producers' pushes (41_event_queue.md R97–R99)
  | pushSpi (endOffset : U7) (ts : U32)
  | pushDone (ts : U32)
  | pushTimeout (ts : U32)
  -- internal rows: the consumer engine (R100–R102)
  | pop
  | overflowCheck
  | consumerStep
  -- spi_txn rows (42_spi_decoder.md R111, R112, R114, R115); `a` is the address field, `len` the length L
  | spiEmpty
  | fifoRead (ts : U32) (n : U7)
  | regWriteBadlen (a : U7) (len : U7)
  | regRead (a : U7) (len : U7)
  -- spi_write rows (43_register_writes.md R123–R131); `v` is the value byte V
  | wrOpmode (ts : U32) (v : Byte)
  | wrModemconfig1 (v : Byte)
  | wrModemconfig2 (v : Byte)
  | wrSymbtimeoutlsb (v : Byte)
  | wrPreamblemsb (v : Byte)
  | wrPreamblelsb (v : Byte)
  | wrPayloadlength (v : Byte)
  | wrModemconfig3 (v : Byte)
  | wrOther (a : U7) (v : Byte)
  -- fsm_transition rows (44_timing_fsm.md R138–R147)
  | tIdleTx (ts : U32)
  | tTxDone (ts : U32)
  | tBrx1Rx (ts : U32)
  | tRx1Done (ts : U32)
  | tRx1Tmo (ts : U32)
  | tBrx2Rx (ts : U32)
  | tRx2Done (ts : U32)
  | tRx2Tmo (ts : U32)
  | tData (ts : U32) (n : U7)
  | outOfSync (stage : Stage) (x : Input)
deriving DecidableEq, Repr

end Sys2Proof
end

