-- ==== Sys2Proof/WellFormed.lean ====
section
/-!
DEFINITION. The side conditions an instruction must meet to stand for an operation of the block: the length
conditions of the transaction rows, the "every other address" of WR_OTHER, the catch-all of OUT_OF_SYNC.
-/

namespace Sys2Proof

/-- The addresses with a handler of their own (30_encoding.md R75). -/
def handledAddresses : List U7 := [0x01, 0x1D, 0x1E, 0x1F, 0x20, 0x21, 0x22, 0x26]

/-- What kind of input an input is. -/
def Input.kind : Input → InputKind
  | .txStart _ => .txStart
  | .rxStart _ => .rxStart
  | .done _ => .done
  | .timeout _ => .timeout
  | .fifoLen _ _ => .fifoLen

/-- The timestamp every input carries (44_timing_fsm.md R136). -/
def Input.ts : Input → U32
  | .txStart ts => ts
  | .rxStart ts => ts
  | .done ts => ts
  | .timeout ts => ts
  | .fifoLen ts _ => ts

/-- A FIFO length operand is in 0..126 (44_timing_fsm.md R136). -/
def Input.wellFormed : Input → Bool
  | .fifoLen _ n => n.toNat ≤ 126
  | _ => true

/-- The T cells of the matrix of 44_timing_fsm.md R148: does the transition table list this pair? -/
def hasTransition : Stage → InputKind → Bool
  | .idle, .txStart => true
  | .transmitting, .done => true
  | .beforeRx1, .rxStart => true
  | .inRx1, .done => true
  | .inRx1, .timeout => true
  | .beforeRx2, .rxStart => true
  | .inRx2, .done => true
  | .inRx2, .timeout => true
  | .awaitingData, .fifoLen => true
  | _, _ => false

/-- The well-formedness check, row by row. -/
def Instr.wellFormed : Instr → Bool
  | .pushSpi _ _ => true
  | .pushDone _ => true
  | .pushTimeout _ => true
  | .pop => true
  | .overflowCheck => true
  | .consumerStep => true
  | .spiEmpty => true
  | .fifoRead _ n => n.toNat ≤ 126
  | .regWriteBadlen _ len => len.toNat ≠ 0 && len.toNat ≠ 2
  | .regRead a len => a.toNat ≠ 0 && len.toNat ≠ 0
  | .wrOpmode _ _ => true
  | .wrModemconfig1 _ => true
  | .wrModemconfig2 _ => true
  | .wrSymbtimeoutlsb _ => true
  | .wrPreamblemsb _ => true
  | .wrPreamblelsb _ => true
  | .wrPayloadlength _ => true
  | .wrModemconfig3 _ => true
  | .wrOther a _ => !handledAddresses.contains a
  | .tIdleTx _ => true
  | .tTxDone _ => true
  | .tBrx1Rx _ => true
  | .tRx1Done _ => true
  | .tRx1Tmo _ => true
  | .tBrx2Rx _ => true
  | .tRx2Done _ => true
  | .tRx2Tmo _ => true
  | .tData _ n => n.toNat ≤ 126
  | .outOfSync stage x => !hasTransition stage x.kind && x.wellFormed

end Sys2Proof
end

