-- ==== Sys2Proof/Decode.lean ====
section
/-!
DEFINITION. The encodings of 30_encoding.md: the codes, the decoder (total, rejecting by name) and, after it, the
encoder written from the same tables. Four encoding spaces exist (R93): 41-bit event words, transactions, 6-bit
transition keys, and the consumer's internal operations, which have no encoding.
-/

namespace Sys2Proof

/-! ## Codes (R85–R88) -/

/-- Stage codes (R86). -/
def Stage.code : Stage → BitVec 3
  | .idle => 0
  | .transmitting => 1
  | .beforeRx1 => 2
  | .inRx1 => 3
  | .beforeRx2 => 4
  | .inRx2 => 5
  | .awaitingData => 6

/-- The stage of a code; code 7 is never written (R86). -/
def Stage.ofCode (c : BitVec 3) : Option Stage :=
  if c = 0 then some .idle
  else if c = 1 then some .transmitting
  else if c = 2 then some .beforeRx1
  else if c = 3 then some .inRx1
  else if c = 4 then some .beforeRx2
  else if c = 5 then some .inRx2
  else if c = 6 then some .awaitingData
  else none

/-- State-machine input codes (R88). -/
def InputKind.code : InputKind → BitVec 3
  | .txStart => 0
  | .rxStart => 1
  | .done => 2
  | .timeout => 3
  | .fifoLen => 4

/-- The input kind of a code; codes 5..7 are never produced (R88). -/
def InputKind.ofCode (c : BitVec 3) : Option InputKind :=
  if c = 0 then some .txStart
  else if c = 1 then some .rxStart
  else if c = 2 then some .done
  else if c = 3 then some .timeout
  else if c = 4 then some .fifoLen
  else none

/-- An input of a kind, with its operands; `n` is used by FIFO_LEN only (R136). -/
def InputKind.withOperands (k : InputKind) (ts : U32) (n : U7) : Input :=
  match k with
  | .txStart => .txStart ts
  | .rxStart => .rxStart ts
  | .done => .done ts
  | .timeout => .timeout ts
  | .fifoLen => .fifoLen ts n

/-- The length operand of an input, 0 where it has none. -/
def Input.lengthOperand : Input → U7
  | .fifoLen _ n => n
  | _ => 0

/-! ## Bit fields -/

/-- TAG = bits 40:39 of the event word (R85). -/
def eventTagField (w : EventWord) : BitVec 2 := w.extractLsb' 39 2

/-- END_OFFSET = bits 38:32 of the event word (R85). -/
def eventEndField (w : EventWord) : U7 := w.extractLsb' 32 7

/-- TIMESTAMP = bits 31:0 of the event word (R85). -/
def eventTsField (w : EventWord) : U32 := w.extractLsb' 0 32

/-- The event word of three fields, TAG high (R85). -/
def mkEventWord (tag : BitVec 2) (endOffset : U7) (ts : U32) : EventWord := tag ++ endOffset ++ ts

/-- W = b[0][7]: 1 = register write (R71). -/
def writeFlag (b0 : Byte) : Bool := b0.getLsbD 7

/-- A = b[0][6:0] (R71). -/
def addressField (b0 : Byte) : U7 := b0.extractLsb' 0 7

/-- The command byte of a register write to address `a`: W = 1 (R71). -/
def writeCommand (a : U7) : Byte := (1 : BitVec 1) ++ a

/-- The command byte of a register read of address `a`: W = 0 (R71). -/
def readCommand (a : U7) : Byte := (0 : BitVec 1) ++ a

/-- STAGE = bits 5:3 of the key (R88). -/
def keyStageField (k : Key) : BitVec 3 := k.extractLsb' 3 3

/-- INPUT = bits 2:0 of the key (R88). -/
def keyInputField (k : Key) : BitVec 3 := k.extractLsb' 0 3

/-- The key `stage ++ input` (R88). -/
def mkKey (s : Stage) (k : InputKind) : Key := s.code ++ k.code

/-! ## Selecting a row -/

/-- The handler of a two-byte register write, by its address (R75, 43_register_writes.md R122). -/
def decodeWrite (ts : U32) (a : U7) (v : Byte) : Instr :=
  if a = 0x01 then .wrOpmode ts v
  else if a = 0x1D then .wrModemconfig1 v
  else if a = 0x1E then .wrModemconfig2 v
  else if a = 0x1F then .wrSymbtimeoutlsb v
  else if a = 0x20 then .wrPreamblemsb v
  else if a = 0x21 then .wrPreamblelsb v
  else if a = 0x22 then .wrPayloadlength v
  else if a = 0x26 then .wrModemconfig3 v
  else .wrOther a v

/-- The form of a transaction from its length and its first two bytes, in the order of tests of
42_spi_decoder.md R110 (R73). `b0` is not read where L = 0, nor `b1` unless L = 2 and W = 1. -/
def decodeTxn (ts : U32) (len : U7) (b0 b1 : Byte) : Instr :=
  if len = 0 then .spiEmpty
  else if b0 = 0x00 then .fifoRead ts (len - 1)
  else if writeFlag b0 then
    if len = 2 then decodeWrite ts (addressField b0) b1
    else .regWriteBadlen (addressField b0) len
  else .regRead (addressField b0) len

/-- The transition row a (stage, input) pair selects, OUT_OF_SYNC where the table lists none
(44_timing_fsm.md R137). -/
def selectRow : Stage → Input → Instr
  | .idle, .txStart ts => .tIdleTx ts
  | .transmitting, .done ts => .tTxDone ts
  | .beforeRx1, .rxStart ts => .tBrx1Rx ts
  | .inRx1, .done ts => .tRx1Done ts
  | .inRx1, .timeout ts => .tRx1Tmo ts
  | .beforeRx2, .rxStart ts => .tBrx2Rx ts
  | .inRx2, .done ts => .tRx2Done ts
  | .inRx2, .timeout ts => .tRx2Tmo ts
  | .awaitingData, .fifoLen ts n => .tData ts n
  | s, x => .outOfSync s x

/-! ## Decode -/

/-- Why an encoding is rejected (R92: the encodings that never occur). No transaction is rejected (R94). -/
inductive DecodeError where
  /-- Event tag 11, which no producer pushes (R85). -/
  | eventTag3
  /-- Stage code 7 (R86). -/
  | stageCode7
  /-- Input codes 5..7 (R88). -/
  | inputCode
  /-- A FIFO length operand of 127 (R136: N is in 0..126). -/
  | fifoLength
deriving DecidableEq, Repr

/-- The consumer's operations that have no encoding (R93, format `internal`). -/
inductive InternalOp where
  | pop
  | overflowCheck
  | consumerStep
deriving DecidableEq, Repr

/-- An encoded operation: the coded bits of one of the four spaces, and beside them the operands that are not
part of the coded bits (the event's timestamp; the length N of an input). -/
inductive Encoded where
  | event (w : EventWord)
  | txn (ts : U32) (bytes : List Byte)
  | key (k : Key) (ts : U32) (n : U7)
  | internal (op : InternalOp)
deriving DecidableEq, Repr

/-- None of the encodings of R92. -/
def Encoded.legal : Encoded → Bool
  | .event w => eventTagField w != 3
  | .txn _ _ => true
  | .key k _ n => keyStageField k != 7 && decide ((keyInputField k).toNat ≤ 4) && n != 127
  | .internal _ => true

/-- No transaction of 128 bytes or more: the environment's duty that a transaction's length is not an alias (R89,
70_reset_and_hazards.md R206). -/
def Encoded.unaliased : Encoded → Bool
  | .event _ => true
  | .txn _ bytes => bytes.length < 128
  | .key _ _ _ => true
  | .internal _ => true

/-- A producer's push from its event word (R85, rows PUSH_SPI, PUSH_DONE, PUSH_TIMEOUT: only TAG is matched). -/
def decodeEvent (w : EventWord) : Except DecodeError Instr :=
  if eventTagField w = 0 then .ok (.pushSpi (eventEndField w) (eventTsField w))
  else if eventTagField w = 1 then .ok (.pushDone (eventTsField w))
  else if eventTagField w = 2 then .ok (.pushTimeout (eventTsField w))
  else .error .eventTag3

/-- The bytes the block sees of those the bus carried: the last `L mod 128`. The length is known modulo 128 only, and
each round of 128 bytes has written over the round before it (R89, 70_reset_and_hazards.md R206, R207; log 25). -/
def seenBytes (bytes : List Byte) : List Byte := bytes.drop (bytes.length / 128 * 128)

/-- A transaction from its bytes, of any length (R70, R73, R89). -/
def decodeBytes (ts : U32) (bytes : List Byte) : Instr :=
  decodeTxn ts (BitVec.ofNat 7 (seenBytes bytes).length) ((seenBytes bytes).getD 0 0) ((seenBytes bytes).getD 1 0)

/-- A transition row from its key (R88, R93). -/
def decodeKey (k : Key) (ts : U32) (n : U7) : Except DecodeError Instr :=
  match Stage.ofCode (keyStageField k), InputKind.ofCode (keyInputField k) with
  | none, _ => .error .stageCode7
  | some _, none => .error .inputCode
  | some s, some i =>
    if i = .fifoLen ∧ n = 127 then .error .fifoLength
    else .ok (selectRow s (i.withOperands ts n))

/-- The decoder over all four encoding spaces. -/
def decode : Encoded → Except DecodeError Instr
  | .event w => decodeEvent w
  | .txn ts bytes => .ok (decodeBytes ts bytes)
  | .key k ts n => decodeKey k ts n
  | .internal .pop => .ok .pop
  | .internal .overflowCheck => .ok .overflowCheck
  | .internal .consumerStep => .ok .consumerStep

/-! ## Encode -/

/-- A register write's two bytes (R74). -/
def encodeWrite (ts : U32) (a : U7) (v : Byte) : Encoded := .txn ts [writeCommand a, v]

/-- A transition row's key with its operands (R88). -/
def encodeRow (s : Stage) (x : Input) : Encoded := .key (mkKey s x.kind) x.ts x.lengthOperand

/-- The encoder. Bytes and operands that the decoder does not read are 0. -/
def encode : Instr → Encoded
  | .pushSpi e ts => .event (mkEventWord 0 e ts)
  | .pushDone ts => .event (mkEventWord 1 0 ts)
  | .pushTimeout ts => .event (mkEventWord 2 0 ts)
  | .pop => .internal .pop
  | .overflowCheck => .internal .overflowCheck
  | .consumerStep => .internal .consumerStep
  | .spiEmpty => .txn 0 []
  | .fifoRead ts n => .txn ts (0x00 :: List.replicate n.toNat 0)
  | .regWriteBadlen a len => .txn 0 (writeCommand a :: List.replicate (len.toNat - 1) 0)
  | .regRead a len => .txn 0 (readCommand a :: List.replicate (len.toNat - 1) 0)
  | .wrOpmode ts v => encodeWrite ts 0x01 v
  | .wrModemconfig1 v => encodeWrite 0 0x1D v
  | .wrModemconfig2 v => encodeWrite 0 0x1E v
  | .wrSymbtimeoutlsb v => encodeWrite 0 0x1F v
  | .wrPreamblemsb v => encodeWrite 0 0x20 v
  | .wrPreamblelsb v => encodeWrite 0 0x21 v
  | .wrPayloadlength v => encodeWrite 0 0x22 v
  | .wrModemconfig3 v => encodeWrite 0 0x26 v
  | .wrOther a v => encodeWrite 0 a v
  | .tIdleTx ts => encodeRow .idle (.txStart ts)
  | .tTxDone ts => encodeRow .transmitting (.done ts)
  | .tBrx1Rx ts => encodeRow .beforeRx1 (.rxStart ts)
  | .tRx1Done ts => encodeRow .inRx1 (.done ts)
  | .tRx1Tmo ts => encodeRow .inRx1 (.timeout ts)
  | .tBrx2Rx ts => encodeRow .beforeRx2 (.rxStart ts)
  | .tRx2Done ts => encodeRow .inRx2 (.done ts)
  | .tRx2Tmo ts => encodeRow .inRx2 (.timeout ts)
  | .tData ts n => encodeRow .awaitingData (.fifoLen ts n)
  | .outOfSync s x => encodeRow s x

/-! ## The table's words -/

/-- The encoded form of `nbits` bits numbered as opcode_table.json numbers them. 41-bit words are event words
(48 bits in whole bytes); a 16-bit word is a two-byte transaction, command byte high (R74); 0 bits are the empty
transaction. At 6 to 8 bits two spaces of the table overlap, transition keys and one-byte transactions, and a word
alone does not say which is meant: a value below 64 is read as a key, one from 64 up as a one-byte transaction
(DESIGN CHOICE, log 16). The timestamp and the length operand are 0 (log 17). -/
def tableEncoded (nbits w : Nat) : Option Encoded :=
  if nbits = 0 then some (.txn 0 [])
  else if nbits ≤ 8 then
    if w < 64 then some (.key (BitVec.ofNat 6 w) 0 0)
    else some (.txn 0 [BitVec.ofNat 8 w])
  else if nbits = 16 then some (.txn 0 [BitVec.ofNat 8 (w / 256), BitVec.ofNat 8 w])
  else if nbits = 41 ∨ nbits = 48 then
    if w < 2 ^ 41 then some (.event (BitVec.ofNat 41 w)) else none
  else none

/-- The instruction the decoder reads from a table word; none where it refuses. -/
def decodeTableWord (nbits w : Nat) : Option Instr :=
  match tableEncoded nbits w with
  | none => none
  | some e => (decode e).toOption

end Sys2Proof
end

