-- ==== Sys2Proof/Machine/Report.lean ====
section
/-!
DEFINITION. The report records the state machine emits (44_timing_fsm.md R152), the results (10_state.md R37) and
the error classes (60_exceptions.md R178, R179).
-/

namespace Sys2Proof.Machine

/-- Which receive window, by its number 1 or 2 (10_state.md R39, 44_timing_fsm.md R146). -/
inductive Window where
  | rx1
  | rx2
deriving DecidableEq, Repr

/-- Which window, if either, carried a downlink (R37). -/
inductive DownlinkResult where
  | noDownlink
  | downlinkInRx1
  | downlinkInRx2
deriving DecidableEq, Repr

/-- The fields of a window report, RX1_TIMEOUT or RX2_TIMEOUT (R142, R145, R152). -/
structure WindowReport where
  windowLen : Int
  optimalEnd : U32
  correction : S32
  mean : Int
  variance : Int
  samples : Nat
deriving DecidableEq, Repr

/-- The kinds of record with their further fields, in the order of their codes (R152). -/
inductive ReportBody where
  | txBegin
  | txEnd (measured : U32) (expected overhead : Int)
  | rx1Open (rel : U32)
  | rx1Downlink (rel : U32)
  | rx1Timeout (w : WindowReport)
  | rx2Open (rel : U32)
  | rx2Downlink (rel : U32)
  | rx2Timeout (w : WindowReport)
  | data (length : U7) (window : Window) (measured : U32) (expected overhead : Int)
  | outOfSync (input : InputKind) (inStage : Stage)
deriving DecidableEq, Repr

/-- One report record: the stage after the input, the timestamp, and the fields of its kind (R152). -/
structure Report where
  stage : Stage
  ts : U32
  body : ReportBody
deriving DecidableEq, Repr

/-- The error classes of the block (60_exceptions.md R178). -/
inductive ErrorClass where
  | outOfSync
  | malformed
  | overflow
deriving DecidableEq, Repr

end Sys2Proof.Machine
end

