-- ==== Sys2Proof/Config.lean ====
section
/-!
DEFINITION. What an implementation fixes: the parameters the spec gives a value (00_scope.md R7), the open
parameters it leaves to the environment (R8), and the free values behind bytes it calls unspecified. The open
parameters and free values are constants without a body: nothing can be proved of their value.
-/

namespace Sys2Proof.Config

/-! ## Fixed parameters (R7) -/

/-- Event Queue slot count. -/
def qcap : Nat := 16

/-- Events the queue holds at once, `QCAP − 1`. -/
def qusable : Nat := 15

/-- Capture buffer bytes. -/
def capsize : Nat := 128

/-- Rolling Average samples per buffer. -/
def racap : Nat := 20

/-- BW_TABLE: the bandwidth in Hz by index (R7, 30_encoding.md R77). -/
def bwTable : Vector Nat 10 :=
  #v[7800, 10400, 15600, 20800, 31250, 41700, 62500, 125000, 250000, 500000]

/-- SF_MIN, the smallest accepted spreading factor. -/
def sfMin : Nat := 6

/-- SF_MAX, the largest accepted spreading factor. -/
def sfMax : Nat := 12

/-- CR_MIN, the smallest accepted coding rate. -/
def crMin : Nat := 5

/-- CR_MAX, the largest accepted coding rate. -/
def crMax : Nat := 8

/-! ## Open parameters (R8) -/

/-- RX1_DELAY_US: µs from transmit end to the expected start of an RX1 downlink (D14; log 5). -/
opaque rx1DelayUs : U32

/-- RX2_DELAY_US: µs from transmit end to the expected start of an RX2 downlink (D14; log 5). -/
opaque rx2DelayUs : U32

/-- RENDER: a report record as one line of text; not observed (R14, R15; log 19). -/
opaque render : Machine.Report → String

/-- What the environment does after the halt output rises (R8, D6). -/
inductive HaltAction where
  | loop
  | reset
  | panic
deriving DecidableEq, Repr, Inhabited

/-- HALT_ACTION (R8; log 19). -/
opaque haltAction : HaltAction

/-- PRODUCER_PRIORITIES; no rule depends on it (R190, D25; log 19). -/
opaque producerPriority : Agent → Nat

/-! ## Free values -/

/-- What an offset of the capture buffer that the DMA has not written since a reset holds (20_memory.md R51:
unspecified), by the number of the reset and the offset (log 3). -/
opaque captureAtReset : Nat → U7 → Byte

/-- The draws of R52: the byte read where the environment broke the stability duty, one for each such read
(log 4). -/
opaque tornByte : Nat → Byte

end Sys2Proof.Config
end

