-- ==== Sys2Proof/Machine/State.lean ====
section
/-!
DEFINITION. The whole state of the block (10_state.md R20–R49) as plain data, its value after reset (R45,
70_reset_and_hazards.md R201), and the reasons a step can stop.
-/

namespace Sys2Proof.Machine

/-- The variants of an Event (30_encoding.md R85); tag code 11 has no constructor (R92). -/
inductive EventTag where
  | spiTransactionEnded
  | radioDone
  | radioTimeout
deriving DecidableEq, Repr

/-- An Event record (R85). -/
structure Event where
  tag : EventTag
  endOffset : U7
  ts : U32
deriving DecidableEq, Repr

/-- The Event Queue `q` (R21, R22). -/
structure Queue where
  slot : Vector Event 16
  head : U4
  tail : U4
  overflow : Bool
deriving DecidableEq, Repr

/-- The Radio Parameter Set `p` (R25–R35). The bandwidth is stored as its index in BW_TABLE, which R26 calls
equivalent (log 15). -/
structure Params where
  bwIndex : Fin 10
  cr : BitVec 4
  sf : BitVec 4
  ih : Bool
  crc : Bool
  preamble : U16
  payloadLen : Byte
  ldro : Bool
  longRange : Bool
  symbTimeout : U16
deriving DecidableEq, Repr

/-- The Timing State Machine `f` (R36–R38). -/
structure Fsm where
  stage : Stage
  result : DownlinkResult
  txStart : U32
  txEnd : U32
  rx1Start : U32
  rx1End : U32
  rx2Start : U32
  rx2End : U32
deriving DecidableEq, Repr

/-- A Rolling Average `ra[k]` (R39): a ring of 20 samples, the slot the next push writes, the samples held. -/
structure Rolling where
  sample : Vector S32 20
  next : Fin 20
  count : Fin 21
deriving DecidableEq, Repr

/-- The control bit `c.halted` (R40), and the model's own latch for what POP returned, empty between steps
(log 8). -/
structure Control where
  halted : Bool
  popped : Option Event
deriving DecidableEq, Repr

/-- Offset `off`, a byte of the transaction whose boundary event is queued in `slot`, was overwritten after that
event was pushed (20_memory.md R52, R67; log 4). -/
structure TornByte where
  slot : U4
  off : U7
deriving DecidableEq, Repr

/-- The capture buffer (20_memory.md R50–R53): the bytes the DMA has written since the last reset, by rising offset.
`torn`, `draws` and `epoch` are the model's own (logs 4 and 9). -/
structure Capture where
  mem : List Host.Cell
  torn : List TornByte
  draws : Nat
  epoch : Nat
deriving DecidableEq, Repr

/-- The open delay parameters a run is taken with (00_scope.md R8; log 5). No step writes them. -/
structure Delays where
  rx1DelayUs : U32
  rx2DelayUs : U32
deriving DecidableEq, Repr

/-- A move of one agent (00_scope.md R5, R6). Moves land between steps (R12; log 1). -/
inductive Move where
  /-- The DMA writes a byte (20_memory.md R53). -/
  | dmaWrite (off : U7) (v : Byte)
  /-- An agent presents an event word at a producer port (R6, 30_encoding.md R85). -/
  | event (a : Agent) (w : EventWord)
  /-- An agent takes the consumer's iteration (41_event_queue.md R102). -/
  | consume (a : Agent)
  /-- The reset `rst` (70_reset_and_hazards.md R200). -/
  | reset
deriving DecidableEq, Repr

/-- The state of the block. `lastEnd` is `d.last_end` (R24), `out` the report stream (R41). `cfg` and `schedule` are
the model's own: the parameters of the run, and the environment's coming moves. -/
structure State where
  queue : Queue
  lastEnd : U7
  params : Params
  fsm : Fsm
  ra1 : Rolling
  ra2 : Rolling
  ctl : Control
  out : List Report
  capture : Capture
  cfg : Delays
  schedule : List Move
deriving DecidableEq, Repr

/-- Reset of the queue (R22); the slots' contents are unspecified, and stand at one record here (log 6). -/
def Queue.reset : Queue where
  slot := Vector.replicate 16 ⟨.spiTransactionEnded, 0, 0⟩
  head := 0
  tail := 0
  overflow := false

/-- Reset of the parameters (R26–R35, R45). -/
def Params.reset : Params where
  bwIndex := 7
  cr := 5
  sf := 7
  ih := false
  crc := false
  preamble := 8
  payloadLen := 1
  ldro := false
  longRange := false
  symbTimeout := 0x64

/-- Reset of the state machine (R36–R38, R45). -/
def Fsm.reset : Fsm where
  stage := .idle
  result := .noDownlink
  txStart := 0
  txEnd := 0
  rx1Start := 0
  rx1End := 0
  rx2Start := 0
  rx2End := 0

/-- Reset of a rolling average (R39, R45); the samples are unspecified, and stand at 0 here (log 7). -/
def Rolling.reset : Rolling where
  sample := Vector.replicate 20 0
  next := 0
  count := 0

/-- Reset of the control bit (R40). -/
def Control.reset : Control where
  halted := false
  popped := none

/-- The capture buffer with nothing written since reset number `epoch` (20_memory.md R51). -/
def Capture.fresh (draws epoch : Nat) : Capture where
  mem := []
  torn := []
  draws := draws
  epoch := epoch

/-- The open parameters as the implementation fixes them (log 5). -/
def Delays.implementation : Delays where
  rx1DelayUs := Config.rx1DelayUs
  rx2DelayUs := Config.rx2DelayUs

/-- The machine right after reset (R45, 70_reset_and_hazards.md R201), with nothing scheduled. -/
def State.reset : State where
  queue := .reset
  lastEnd := 0
  params := .reset
  fsm := .reset
  ra1 := .reset
  ra2 := .reset
  ctl := .reset
  out := []
  capture := .fresh 0 0
  cfg := .implementation
  schedule := []

/-- Why a step faults. -/
inductive Fault where
  /-- Raised by every operation of the consumer once `c.halted` is 1: the halted state is a fault
  (60_exceptions.md R186, 70_reset_and_hazards.md R213; log 10). Safe. -/
  | overflow
  /-- Raised where an event word with the tag no producer pushes is presented (30_encoding.md R85, R92; log 13).
  Safe. -/
  | unreachableEncoding
deriving DecidableEq, Repr

/-- Why a step is refused. -/
inductive Refusal where
  /-- An instruction that has no meaning yet; raised by `exec` alone. Safe. -/
  | notModelled (mnemonic : String)
  /-- A push by an agent that is not its producer, or the consumer's iteration by a producer: the block has no such
  move (60_exceptions.md R192; log 14). Safe. -/
  | contextViolation
  /-- A transition row run in a stage its key does not name: R137 does not select it there (log 11). Safe. -/
  | notSelected
deriving DecidableEq, Repr

/-- The outcome of a step of this machine. -/
abbrev Result := Host.Outcome State Fault Refusal

end Sys2Proof.Machine
end

