-- ==== Sys2Proof/Machine/Flags.lean ====
section
/-!
DEFINITION. The status bits and predicates of the block: the queue predicates (41_event_queue.md R95, 10_state.md
R23), the status ports (00_scope.md R6) and the codes of the names a record or a status carries (R87, R152, R179).
-/

namespace Sys2Proof.Machine

/-- `empty(q)`: head = tail (R95). -/
def Queue.empty (q : Queue) : Bool := q.head == q.tail

/-- `full(q)`: head + 1 mod 16 = tail (R95). -/
def Queue.full (q : Queue) : Bool := q.head + 1 == q.tail

/-- The occupancy `(q.head − q.tail) mod 16` (R23). -/
def Queue.count (q : Queue) : Nat := (q.head - q.tail).toNat

/-- The `halt` output (R6, R40). -/
def State.haltPort (s : State) : Bool := s.ctl.halted

/-- The `overflow` status output (R6, R22). -/
def State.overflowPort (s : State) : Bool := s.queue.overflow

/-- Result codes (R87). -/
def DownlinkResult.code : DownlinkResult → BitVec 2
  | .noDownlink => 0
  | .downlinkInRx1 => 1
  | .downlinkInRx2 => 2

/-- The number of a window, 1 or 2. -/
def Window.number : Window → Nat
  | .rx1 => 1
  | .rx2 => 2

/-- The kind codes of report records (R152). -/
def ReportBody.code : ReportBody → Nat
  | .txBegin => 0
  | .txEnd _ _ _ => 1
  | .rx1Open _ => 2
  | .rx1Downlink _ => 3
  | .rx1Timeout _ => 4
  | .rx2Open _ => 5
  | .rx2Downlink _ => 6
  | .rx2Timeout _ => 7
  | .data _ _ _ _ _ => 8
  | .outOfSync _ _ => 9

/-- Error class codes (60_exceptions.md R179). -/
def ErrorClass.code : ErrorClass → Nat
  | .outOfSync => 1
  | .malformed => 2
  | .overflow => 3

/-- Which error classes are recoverable (R179). -/
def ErrorClass.recoverable : ErrorClass → Bool
  | .outOfSync => true
  | .malformed => true
  | .overflow => false

/-- The error class a fault of the model stands for (R186: the halted state is the fault OVERFLOW); an unreachable
encoding is no error of the block (R178). -/
def Fault.errorClass : Fault → Option ErrorClass
  | .overflow => some .overflow
  | .unreachableEncoding => none

/-- The class code of a fault (R179). -/
def Fault.errorCode (f : Fault) : Option Nat := f.errorClass.map ErrorClass.code

/-- The error class a record makes visible: the OUT_OF_SYNC record, and no other (R178, R179). -/
def ReportBody.errorClass : ReportBody → Option ErrorClass
  | .txBegin => none
  | .txEnd _ _ _ => none
  | .rx1Open _ => none
  | .rx1Downlink _ => none
  | .rx1Timeout _ => none
  | .rx2Open _ => none
  | .rx2Downlink _ => none
  | .rx2Timeout _ => none
  | .data _ _ _ _ _ => none
  | .outOfSync _ _ => some .outOfSync

/-- The class code of a record (R179). -/
def Report.errorCode (r : Report) : Option Nat := r.body.errorClass.map ErrorClass.code

end Sys2Proof.Machine
end

