-- ==== Sys2Proof/Machine/Operands.lean ====
section
/-!
DEFINITION. The operands of the operations: the fields of a register value V (30_encoding.md R76–R82), their
acceptance ranges (43_register_writes.md R124, R125), operand assembly (R83), the transaction length (20_memory.md
R54), and the wrapped and signed readings of 00_scope.md R9.
-/

namespace Sys2Proof.Machine

/-! ## Numbers (R9) -/

/-- `wrap32(x) = x mod 2^32`. -/
def wrap32 (x : Int) : U32 := BitVec.ofInt 32 x

/-- `zext` to 16 bits. -/
def zext16 (v : Byte) : U16 := v.setWidth 16

/-! ## Transactions (R54) -/

/-- `len(s, e) = (e − s) mod 128`. -/
def txnLen (start stop : U7) : U7 := stop - start

/-- Whether offset `o` is one of the bytes of the transaction from `start` up to `stop`. -/
def txnCovers (start stop o : U7) : Bool := (o - start).toNat < (stop - start).toNat

/-! ## Fields of V -/

/-- OpMode LR = V[7] (R76). -/
def opmodeLongRange (v : Byte) : Bool := v.getLsbD 7

/-- OpMode MODE = V[2:0] (R76). -/
def opmodeMode (v : Byte) : BitVec 3 := v.extractLsb' 0 3

/-- ModemConfig1 BWIDX = V[7:4] (R77). -/
def mc1BwIndex (v : Byte) : BitVec 4 := v.extractLsb' 4 4

/-- ModemConfig1 CRF = V[3:1] (R77). -/
def mc1CodingRate (v : Byte) : BitVec 3 := v.extractLsb' 1 3

/-- ModemConfig1 IH = V[0] (R77). -/
def mc1ImplicitHeader (v : Byte) : Bool := v.getLsbD 0

/-- ModemConfig2 SF = V[7:4] (R78). -/
def mc2SpreadingFactor (v : Byte) : BitVec 4 := v.extractLsb' 4 4

/-- ModemConfig2 CRC = V[2] (R78). -/
def mc2Crc (v : Byte) : Bool := v.getLsbD 2

/-- ModemConfig2 STOH = V[1:0] (R78). -/
def mc2TimeoutHigh (v : Byte) : BitVec 2 := v.extractLsb' 0 2

/-- ModemConfig3 LDRO = V[3] (R82). -/
def mc3Ldro (v : Byte) : Bool := v.getLsbD 3

/-! ## Accepted values -/

/-- The BW_TABLE index a BWIDX field stands for; 10..15 are ignored (R77, R84). -/
def acceptBwIndex (f : BitVec 4) : Option (Fin 10) :=
  if h : f.toNat ≤ 9 then some ⟨f.toNat, by omega⟩ else none

/-- The coding rate `CRF + 4` where it is in 5..8; other fields are ignored (R77, R84). -/
def acceptCodingRate (f : BitVec 3) : Option (BitVec 4) :=
  if Config.crMin ≤ f.toNat + 4 ∧ f.toNat + 4 ≤ Config.crMax then some (f.setWidth 4 + 4) else none

/-- The spreading factor where it is in 6..12; other fields are ignored (R78, R84). -/
def acceptSpreadingFactor (f : BitVec 4) : Option (BitVec 4) :=
  if Config.sfMin ≤ f.toNat ∧ f.toNat ≤ Config.sfMax then some f else none

/-! ## Merges into the 16-bit parameters (R83) -/

/-- A new high part over the old low byte: `(hi << 8) | (old & 0x00FF)`. -/
def mergeHigh (hi : U16) (old : U16) : U16 := (hi <<< 8) ||| (old &&& 0x00FF)

/-- A new low byte under the old high part: `(old & 0xFF00) | lo`. -/
def mergeLow (old : U16) (lo : Byte) : U16 := (old &&& 0xFF00) ||| zext16 lo

/-! ## Parameters as numbers -/

/-- `p.bw` in Hz (10_state.md R26). -/
def Params.bw (p : Params) : Nat := Config.bwTable[p.bwIndex.val]'p.bwIndex.isLt

/-- A flag as the number the air-time formula uses (45_timing_arithmetic.md R160). -/
def flagInt (b : Bool) : Int := if b then 1 else 0

end Sys2Proof.Machine
end

