-- ==== Sys2Proof/Machine/Ops.lean ====
section
/-!
DEFINITION. The named operations over the state: the updates, the capture memory (20_memory.md R50–R54), the queue
storage and the push and pop bodies (R55, 41_event_queue.md R96, R100), emitting a record, and entering the two
error classes that change state (60_exceptions.md R180, R185). There is no return from either: an out-of-sync needs
none (R181), and only reset leaves the halt (R187).
-/

namespace Sys2Proof.Machine

/-! ## Updates of one component -/

/-- Replace the Event Queue. -/
def State.withQueue (s : State) (q : Queue) : State := { s with queue := q }

/-- Write `d.last_end` (10_state.md R24). -/
def State.withLastEnd (s : State) (e : U7) : State := { s with lastEnd := e }

/-- Replace the Radio Parameter Set. -/
def State.withParams (s : State) (p : Params) : State := { s with params := p }

/-- Replace the state machine's registers. -/
def State.withFsm (s : State) (f : Fsm) : State := { s with fsm := f }

/-- Replace the rolling average of window 1. -/
def State.withRa1 (s : State) (r : Rolling) : State := { s with ra1 := r }

/-- Replace the rolling average of window 2. -/
def State.withRa2 (s : State) (r : Rolling) : State := { s with ra2 := r }

/-- Write `c.halted`. -/
def State.withHalted (s : State) (h : Bool) : State := { s with ctl := { s.ctl with halted := h } }

/-- Write the latch of POP's result (log 8). -/
def State.withPopped (s : State) (e : Option Event) : State := { s with ctl := { s.ctl with popped := e } }

/-- Replace the capture buffer. -/
def State.withCapture (s : State) (c : Capture) : State := { s with capture := c }

/-- Replace the environment's coming moves. -/
def State.withSchedule (s : State) (m : List Move) : State := { s with schedule := m }

/-- `emit`: append one record to the report stream (10_state.md R41). -/
def State.emit (s : State) (r : Report) : State := { s with out := s.out ++ [r] }

/-! ## The capture memory -/

/-- The byte listed at an offset. -/
def Memory.lookup : List Host.Cell → Nat → Option Byte
  | [], _ => none
  | (a, b) :: m, k => if a = k then some b else Memory.lookup m k

/-- Write a byte, keeping the offsets rising. -/
def Memory.write : List Host.Cell → Nat → Byte → List Host.Cell
  | [], k, v => [(k, v)]
  | (a, b) :: m, k, v =>
    if k < a then (k, v) :: (a, b) :: m
    else if k = a then (k, v) :: m
    else (a, b) :: Memory.write m k v

/-- The canonical form: offsets strictly rising, all in 0..127 (20_memory.md R50). An unlisted offset has no value of
its own to list, so no entry is redundant. -/
abbrev Memory.wf (m : List Host.Cell) : Prop :=
  m.Pairwise (fun a b => a.1 < b.1) ∧ ∀ c ∈ m, c.1 < Config.capsize

/-- What an offset that nothing has written since the last reset reads as: a free value (R51; log 3). -/
def Capture.unlisted (c : Capture) (o : U7) : Byte := Config.captureAtReset c.epoch o

/-- The byte the buffer holds at an offset, `cap[o]` (R52). -/
def Capture.byteAt (c : Capture) (o : U7) : Byte := (Memory.lookup c.mem o.toNat).getD (c.unlisted o)

/-- `CapRead(o)` while the transaction queued in `slot` is decoded: `cap[o]`, or a draw if the DMA overwrote that byte
after the transaction's boundary event was queued (R52, R67; log 4). -/
def capRead (slot : U4) (o : U7) (s : State) : Byte × State :=
  if s.capture.torn.contains ⟨slot, o⟩ then
    (Config.tornByte s.capture.draws, s.withCapture { s.capture with draws := s.capture.draws + 1 })
  else (s.capture.byteAt o, s)

/-- The bytes of the transaction from `start` up to `stop`, as the logical view of R54 gives them. -/
def Capture.bytes (c : Capture) (start stop : U7) : List Byte :=
  (List.range (txnLen start stop).toNat).map fun j => c.byteAt (start + BitVec.ofNat 7 j)

/-- Forget which bytes of the transaction queued in `slot` were overwritten: it has been decoded. -/
def State.clearTorn (s : State) (slot : U4) : State :=
  s.withCapture { s.capture with torn := s.capture.torn.filter fun t => t.slot ≠ slot }

/-! ## The queue storage -/

/-- `QSlotRead(i)` (R55). -/
def Queue.slotRead (q : Queue) (i : U4) : Event := q.slot[i.toNat]'i.isLt

/-- `QSlotWrite(i, e)` (R55). -/
def Queue.slotWrite (q : Queue) (i : U4) (e : Event) : Queue :=
  { q with slot := q.slot.set i.toNat e i.isLt }

/-- The queue's logical contents, oldest first (10_state.md R23). -/
def Queue.contents (q : Queue) : List Event :=
  (List.range q.count).map fun j => q.slotRead (q.tail + BitVec.ofNat 4 j)

/-- `Push(e)` (41_event_queue.md R96): onto a full queue the event is lost and the sticky flag set. -/
def Queue.push (q : Queue) (e : Event) : Queue :=
  if q.full then { q with overflow := true }
  else { q.slotWrite q.head e with head := q.head + 1 }

/-- `POP()` (R100): its result and the queue after it. -/
def Queue.pop (q : Queue) : Option Event × Queue :=
  if q.empty then (none, q)
  else (some (q.slotRead q.tail), { q with tail := q.tail + 1 })

/-! ## DMA writes -/

/-- The transactions queued in `k` slots from slot `i` on, as (slot, start, end): each starts where the one before it
ends, the first at `start` (42_spi_decoder.md R110). -/
def Queue.pendingTxns (q : Queue) : Nat → U4 → U7 → List (U4 × U7 × U7)
  | 0, _, _ => []
  | k + 1, i, start =>
    let e := q.slotRead i
    match e.tag with
    | .spiTransactionEnded => (i, start, e.endOffset) :: q.pendingTxns k (i + 1) e.endOffset
    | .radioDone => q.pendingTxns k (i + 1) start
    | .radioTimeout => q.pendingTxns k (i + 1) start

/-- The queued transactions whose bytes a write at offset `o` overwrites (20_memory.md R67). -/
def State.tornBy (s : State) (o : U7) : List TornByte :=
  ((s.queue.pendingTxns s.queue.count s.queue.tail s.lastEnd).filter
      fun t => txnCovers t.2.1 t.2.2 o && !s.capture.torn.contains ⟨t.1, o⟩).map fun t => ⟨t.1, o⟩

/-- `MemWrite(o, 1, v)` by the DMA (R53). -/
def State.dmaWrite (s : State) (o : U7) (v : Byte) : State :=
  s.withCapture { s.capture with
    mem := Memory.write s.capture.mem o.toNat v
    torn := s.capture.torn ++ s.tornBy o }

/-! ## Errors and reset -/

/-- Enter OUT_OF_SYNC (44_timing_fsm.md R147, 60_exceptions.md R180): one record naming the input and the stage it
arrived in, stage Idle, result NoDownlink, nothing else. -/
def raiseOutOfSync (x : Input) (s : State) : State :=
  (s.withFsm { s.fsm with stage := .idle, result := .noDownlink }).emit
    ⟨.idle, x.ts, .outOfSync x.kind s.fsm.stage⟩

/-- Enter OVERFLOW (60_exceptions.md R185): `c.halted <- 1`. -/
def raiseOverflow (s : State) : State := s.withHalted true

/-- The reset event (70_reset_and_hazards.md R200, R201): every element at its reset value. The run's parameters and
the environment's coming moves are not the block's and stay; the capture buffer's contents become unspecified anew
(log 18). -/
def resetBlock (s : State) : State :=
  { State.reset with
    capture := .fresh s.capture.draws (s.capture.epoch + 1)
    cfg := s.cfg
    schedule := s.schedule }

/-- Every operation of the consumer needs a consumer that has not halted: the halted state is a fault (60_exceptions.md
R186; log 10). -/
def whenRunning (s : State) (k : Result) : Result := if s.ctl.halted then .fault .overflow else k

end Sys2Proof.Machine
end

