-- ==== Sys2Proof/Machine/QueueOps.lean ====
section
/-!
DEFINITION. The Event Queue operations (41_event_queue.md R96–R101): the producers' pushes, the consumer's pop and
its overflow check. Producers are not stopped by a halt (R106).
-/

namespace Sys2Proof.Machine

/-- PUSH_SPI (R97). -/
def execPushSpi (endOffset : U7) (ts : U32) (s : State) : Result :=
  .next (s.withQueue (s.queue.push ⟨.spiTransactionEnded, endOffset, ts⟩))

/-- PUSH_DONE (R98). -/
def execPushDone (ts : U32) (s : State) : Result :=
  .next (s.withQueue (s.queue.push ⟨.radioDone, 0, ts⟩))

/-- PUSH_TIMEOUT (R99). -/
def execPushTimeout (ts : U32) (s : State) : Result :=
  .next (s.withQueue (s.queue.push ⟨.radioTimeout, 0, ts⟩))

/-- The state after POP, its result in the latch (R100; log 8). -/
def popEvent (s : State) : State := (s.withQueue s.queue.pop.2).withPopped s.queue.pop.1

/-- POP (R100). -/
def execPop (s : State) : Result := whenRunning s (.next (popEvent s))

/-- The state after OVERFLOW_CHECK (R101). -/
def overflowChecked (s : State) : State := if s.queue.overflow then raiseOverflow s else s

/-- OVERFLOW_CHECK (R101). -/
def execOverflowCheck (s : State) : Result := whenRunning s (.next (overflowChecked s))

end Sys2Proof.Machine
end

