-- ==== Sys2Proof/Machine/RollingAverage.lean ====
section
/-!
DEFINITION. The Rolling Average (46_rolling_average.md R170–R174).
-/

namespace Sys2Proof.Machine

/-- `RA_PUSH(ra, x)` (R171). -/
def Rolling.push (r : Rolling) (x : S32) : Rolling where
  sample := r.sample.set r.next.val x r.next.isLt
  next := ⟨(r.next.val + 1) % 20, Nat.mod_lt _ (by decide)⟩
  count := ⟨min (r.count.val + 1) 20, by omega⟩

/-- The held samples `sample[0..count−1]` as signed integers (R174). -/
def Rolling.held (r : Rolling) : List Int := (r.sample.toList.take r.count.val).map BitVec.toInt

/-- `RA_MEAN(ra)` (R172). -/
def Rolling.mean (r : Rolling) : Int :=
  if r.count.val = 0 then 0 else r.held.sum.tdiv (r.count.val : Int)

/-- `RA_VARIANCE(ra)`, about the truncated mean (R173). -/
def Rolling.variance (r : Rolling) : Int :=
  if r.count.val = 0 then 0
  else ((r.held.map fun x => (x - r.mean) ^ 2).sum).tdiv (r.count.val : Int)

end Sys2Proof.Machine
end

