-- ==== Sys2Proof/Machine/Timing.lean ====
section
/-!
DEFINITION. The timing arithmetic (45_timing_arithmetic.md R158–R165): pure functions of the Radio Parameter Set, on
mathematical integers with division truncated toward zero; sums with timestamps are reduced modulo 2^32.
-/

namespace Sys2Proof.Machine

/-- `symbol_duration(p)`, µs (R158). -/
def symbolDuration (p : Params) : Int := (((2 ^ p.sf.toNat * 1000000 : Nat) : Int)).tdiv (p.bw : Int)

/-- `preamble_duration(p)`, µs (R159). -/
def preambleDuration (p : Params) : Int :=
  ((p.preamble.toNat : Int) + 4) * symbolDuration p + (symbolDuration p).tdiv 4

/-- `divisor` of R160. -/
def payloadDivisor (p : Params) : Int := 4 * ((p.sf.toNat : Int) - 2 * flagInt p.ldro)

/-- `a` of R160. -/
def payloadNumerator (p : Params) (pl : Nat) : Int :=
  8 * (pl : Int) - 4 * (p.sf.toNat : Int) + 44 - 20 * flagInt p.ih

/-- `payload_symbols(p, PL)` (R160). -/
def payloadSymbols (p : Params) (pl : Nat) : Int :=
  max 0 (if payloadNumerator p pl < 0 then 0
    else (payloadNumerator p pl + payloadDivisor p - 1).tdiv (payloadDivisor p)) * (p.cr.toNat : Int) + 8

/-- `air_time(p, PL)`, µs (R161). -/
def airTime (p : Params) (pl : Nat) : Int :=
  preambleDuration p + payloadSymbols p pl * symbolDuration p

/-- `window_len(p)`, µs (R162). -/
def windowLen (p : Params) : Int := symbolDuration p * (p.symbTimeout.toNat : Int)

/-- `expected_start(t_tx_end, delay)` (R163). -/
def expectedStart (txEnd delay : U32) : U32 := txEnd + delay

/-- `optimal_end(p, t_tx_end, delay)` (R164). -/
def optimalEnd (p : Params) (txEnd delay : U32) : U32 :=
  wrap32 (((expectedStart txEnd delay).toNat : Int) + (preambleDuration p + windowLen p).tdiv 2)

/-- `correction(p, t_tx_end, delay, t_end)`, an s32 (R165). -/
def correction (p : Params) (txEnd delay tEnd : U32) : S32 := tEnd - optimalEnd p txEnd delay

end Sys2Proof.Machine
end

