-- ==== Sys2Proof/Machine/Fsm.lean ====
section
/-!
DEFINITION. The LoRa Timing State Machine (44_timing_fsm.md R136–R147): one meaning for each transition row, the
out-of-sync catch-all, and `signal`, which selects the row and runs it.
-/

namespace Sys2Proof.Machine

/-- A transition row runs in the one stage its key names (R137; log 11). -/
def inStage (stage : Stage) (s : State) (t : State) : Result :=
  whenRunning s (if s.fsm.stage = stage then .next t else .refused .notSelected)

/-- The fields of a window report, after the correction has been pushed (R142, R145). -/
def windowReport (p : Params) (txEnd delay ts : U32) (r : Rolling) : WindowReport where
  windowLen := windowLen p
  optimalEnd := optimalEnd p txEnd delay
  correction := correction p txEnd delay ts
  mean := r.mean
  variance := r.variance
  samples := r.count.val

/-- T_IDLE_TX (R138). -/
def execTIdleTx (ts : U32) (s : State) : Result :=
  inStage .idle s
    ((s.withFsm { s.fsm with txStart := ts, stage := .transmitting }).emit ⟨.transmitting, ts, .txBegin⟩)

/-- The TX_END record of R139. -/
def txEndReport (ts : U32) (s : State) : Report :=
  ⟨.beforeRx1, ts, .txEnd (ts - s.fsm.txStart) (airTime s.params s.params.payloadLen.toNat)
    (((ts - s.fsm.txStart).toNat : Int) - airTime s.params s.params.payloadLen.toNat)⟩

/-- T_TX_DONE (R139). -/
def execTTxDone (ts : U32) (s : State) : Result :=
  inStage .transmitting s
    ((s.withFsm { s.fsm with txEnd := ts, stage := .beforeRx1 }).emit (txEndReport ts s))

/-- T_BRX1_RX (R140). -/
def execTBrx1Rx (ts : U32) (s : State) : Result :=
  inStage .beforeRx1 s
    ((s.withFsm { s.fsm with rx1Start := ts, stage := .inRx1 }).emit ⟨.inRx1, ts, .rx1Open (ts - s.fsm.txEnd)⟩)

/-- T_RX1_DONE (R141). -/
def execTRx1Done (ts : U32) (s : State) : Result :=
  inStage .inRx1 s
    ((s.withFsm { s.fsm with rx1End := ts, result := .downlinkInRx1, stage := .awaitingData }).emit
      ⟨.awaitingData, ts, .rx1Downlink (ts - s.fsm.rx1Start)⟩)

/-- `ra[1]` after the correction of a timeout at `ts` (R142). -/
def rx1After (ts : U32) (s : State) : Rolling :=
  s.ra1.push (correction s.params s.fsm.txEnd s.cfg.rx1DelayUs ts)

/-- T_RX1_TMO (R142). -/
def execTRx1Tmo (ts : U32) (s : State) : Result :=
  inStage .inRx1 s
    (((s.withFsm { s.fsm with rx1End := ts, stage := .beforeRx2 }).withRa1 (rx1After ts s)).emit
      ⟨.beforeRx2, ts, .rx1Timeout (windowReport s.params s.fsm.txEnd s.cfg.rx1DelayUs ts (rx1After ts s))⟩)

/-- T_BRX2_RX (R143). -/
def execTBrx2Rx (ts : U32) (s : State) : Result :=
  inStage .beforeRx2 s
    ((s.withFsm { s.fsm with rx2Start := ts, stage := .inRx2 }).emit ⟨.inRx2, ts, .rx2Open (ts - s.fsm.txEnd)⟩)

/-- T_RX2_DONE (R144). -/
def execTRx2Done (ts : U32) (s : State) : Result :=
  inStage .inRx2 s
    ((s.withFsm { s.fsm with rx2End := ts, result := .downlinkInRx2, stage := .awaitingData }).emit
      ⟨.awaitingData, ts, .rx2Downlink (ts - s.fsm.rx2Start)⟩)

/-- `ra[2]` after the correction of a timeout at `ts` (R145). -/
def rx2After (ts : U32) (s : State) : Rolling :=
  s.ra2.push (correction s.params s.fsm.txEnd s.cfg.rx2DelayUs ts)

/-- T_RX2_TMO (R145). -/
def execTRx2Tmo (ts : U32) (s : State) : Result :=
  inStage .inRx2 s
    (((s.withFsm { s.fsm with rx2End := ts, result := .noDownlink, stage := .idle }).withRa2 (rx2After ts s)).emit
      ⟨.idle, ts, .rx2Timeout (windowReport s.params s.fsm.txEnd s.cfg.rx2DelayUs ts (rx2After ts s))⟩)

/-- The window the data report is about (R146). -/
def dataWindow (f : Fsm) : Window := if f.result = .downlinkInRx1 then .rx1 else .rx2

/-- The measured duration of the data report (R146). -/
def dataMeasured (f : Fsm) : U32 :=
  match dataWindow f with
  | .rx1 => f.rx1End - f.rx1Start
  | .rx2 => f.rx2End - f.rx2Start

/-- The DATA record of R146. -/
def dataReport (ts : U32) (n : U7) (s : State) : Report :=
  ⟨.idle, ts, .data n (dataWindow s.fsm) (dataMeasured s.fsm) (airTime s.params n.toNat)
    (((dataMeasured s.fsm).toNat : Int) - airTime s.params n.toNat)⟩

/-- T_DATA (R146). -/
def execTData (ts : U32) (n : U7) (s : State) : Result :=
  inStage .awaitingData s ((s.withFsm { s.fsm with stage := .idle }).emit (dataReport ts n s))

/-- OUT_OF_SYNC (R147): the input `x` arrives in a stage whose row of the table does not take it. -/
def execOutOfSync (stage : Stage) (x : Input) (s : State) : Result :=
  if hasTransition stage x.kind then whenRunning s (.refused .notSelected)
  else inStage stage s (raiseOutOfSync x s)

/-- Run a selected transition row; no other operation is a row of the transition table (R137). -/
def runRow (i : Instr) (s : State) : Result :=
  match i with
  | .tIdleTx ts => execTIdleTx ts s
  | .tTxDone ts => execTTxDone ts s
  | .tBrx1Rx ts => execTBrx1Rx ts s
  | .tRx1Done ts => execTRx1Done ts s
  | .tRx1Tmo ts => execTRx1Tmo ts s
  | .tBrx2Rx ts => execTBrx2Rx ts s
  | .tRx2Done ts => execTRx2Done ts s
  | .tRx2Tmo ts => execTRx2Tmo ts s
  | .tData ts n => execTData ts n s
  | .outOfSync st x => execOutOfSync st x s
  | .pushSpi _ _ | .pushDone _ | .pushTimeout _ | .pop | .overflowCheck | .consumerStep
  | .spiEmpty | .fifoRead _ _ | .regWriteBadlen _ _ | .regRead _ _
  | .wrOpmode _ _ | .wrModemconfig1 _ | .wrModemconfig2 _ | .wrSymbtimeoutlsb _
  | .wrPreamblemsb _ | .wrPreamblelsb _ | .wrPayloadlength _ | .wrModemconfig3 _ | .wrOther _ _ =>
    .refused .notSelected

/-- `signal X`: deliver an input in the same consumer step (R136, FSM_STEP of R137). -/
def signal (x : Input) (s : State) : Result := runRow (selectRow s.fsm.stage x) s

end Sys2Proof.Machine
end

