-- ==== Sys2Proof/Machine/Registers.lean ====
section
/-!
DEFINITION. The register-write handlers (43_register_writes.md R122–R131). Each field is checked and written on its
own (R135); a rejected field leaves its shadow unchanged and no trace (60_exceptions.md R183).
-/

namespace Sys2Proof.Machine

/-- A handler that only writes parameters: they take effect at once (R133). -/
def writeParams (s : State) (p : Params) : Result := whenRunning s (.next (s.withParams p))

/-- WR_OPMODE (R123): the long-range flag, and the input MODE stands for. -/
def execWrOpmode (ts : U32) (v : Byte) (s : State) : Result :=
  let s' := s.withParams { s.params with longRange := opmodeLongRange v }
  whenRunning s
    (if opmodeMode v = 3 then signal (.txStart ts) s'
    else if opmodeMode v = 6 then signal (.rxStart ts) s'
    else .next s')

/-- WR_MODEMCONFIG1 (R124). -/
def execWrModemconfig1 (v : Byte) (s : State) : Result :=
  writeParams s { s.params with
    bwIndex := (acceptBwIndex (mc1BwIndex v)).getD s.params.bwIndex
    cr := (acceptCodingRate (mc1CodingRate v)).getD s.params.cr
    ih := mc1ImplicitHeader v }

/-- WR_MODEMCONFIG2 (R125). -/
def execWrModemconfig2 (v : Byte) (s : State) : Result :=
  writeParams s { s.params with
    sf := (acceptSpreadingFactor (mc2SpreadingFactor v)).getD s.params.sf
    crc := mc2Crc v
    symbTimeout := mergeHigh ((mc2TimeoutHigh v).setWidth 16) s.params.symbTimeout }

/-- WR_SYMBTIMEOUTLSB (R126). -/
def execWrSymbtimeoutlsb (v : Byte) (s : State) : Result :=
  writeParams s { s.params with symbTimeout := mergeLow s.params.symbTimeout v }

/-- WR_PREAMBLEMSB (R127). -/
def execWrPreamblemsb (v : Byte) (s : State) : Result :=
  writeParams s { s.params with preamble := mergeHigh (zext16 v) s.params.preamble }

/-- WR_PREAMBLELSB (R128). -/
def execWrPreamblelsb (v : Byte) (s : State) : Result :=
  writeParams s { s.params with preamble := mergeLow s.params.preamble v }

/-- WR_PAYLOADLENGTH (R129). -/
def execWrPayloadlength (v : Byte) (s : State) : Result :=
  writeParams s { s.params with payloadLen := v }

/-- WR_MODEMCONFIG3 (R130). -/
def execWrModemconfig3 (v : Byte) (s : State) : Result :=
  writeParams s { s.params with ldro := mc3Ldro v }

/-- WR_OTHER (R131): ignored, whatever the address and the value. -/
def execWrOther (_a : U7) (_v : Byte) (s : State) : Result := whenRunning s (.next s)

end Sys2Proof.Machine
end

