-- ==== Sys2Proof/Machine/Spi.lean ====
section
/-!
DEFINITION. The SPI Transaction Decoder (42_spi_decoder.md R110–R120): the transaction forms, and ON_TRANSACTION,
which moves `d.last_end`, reads the bytes the form depends on and runs the form they select.
-/

namespace Sys2Proof.Machine

/-- SPI_EMPTY (R111): ignored. -/
def execSpiEmpty (s : State) : Result := whenRunning s (.next s)

/-- FIFO_READ (R112): signal FIFO_LEN with the number of data bytes. -/
def execFifoRead (ts : U32) (n : U7) (s : State) : Result := whenRunning s (signal (.fifoLen ts n) s)

/-- REG_WRITE_BADLEN (R114): discarded, a silent malformed transaction. -/
def execRegWriteBadlen (_a _len : U7) (s : State) : Result := whenRunning s (.next s)

/-- REG_READ (R115): ignored. -/
def execRegRead (_a _len : U7) (s : State) : Result := whenRunning s (.next s)

/-- Run a decoded transaction; no other operation is a transaction form. -/
def runTxn (i : Instr) (s : State) : Result :=
  match i with
  | .spiEmpty => execSpiEmpty s
  | .fifoRead ts n => execFifoRead ts n s
  | .regWriteBadlen a len => execRegWriteBadlen a len s
  | .regRead a len => execRegRead a len s
  | .wrOpmode ts v => execWrOpmode ts v s
  | .wrModemconfig1 v => execWrModemconfig1 v s
  | .wrModemconfig2 v => execWrModemconfig2 v s
  | .wrSymbtimeoutlsb v => execWrSymbtimeoutlsb v s
  | .wrPreamblemsb v => execWrPreamblemsb v s
  | .wrPreamblelsb v => execWrPreamblelsb v s
  | .wrPayloadlength v => execWrPayloadlength v s
  | .wrModemconfig3 v => execWrModemconfig3 v s
  | .wrOther a v => execWrOther a v s
  | .pushSpi _ _ | .pushDone _ | .pushTimeout _ | .pop | .overflowCheck | .consumerStep
  | .tIdleTx _ | .tTxDone _ | .tBrx1Rx _ | .tRx1Done _ | .tRx1Tmo _
  | .tBrx2Rx _ | .tRx2Done _ | .tRx2Tmo _ | .tData _ _ | .outOfSync _ _ =>
    .refused .notSelected

/-- The bytes a transaction's form depends on, and the state after reading them: b[0] where L ≥ 1, and b[1] only for a
write of length 2 (R118). A byte that is not read is given as 0. -/
def fetchTxn (slot : U4) (start : U7) (len : U7) (s : State) : Byte × Byte × State :=
  if len = 0 then (0, 0, s)
  else
    let (b0, s0) := capRead slot start s
    if writeFlag b0 && len == 2 then
      let (b1, s1) := capRead slot (start + 1) s0
      (b0, b1, s1)
    else (b0, 0, s0)

/-- `ON_TRANSACTION(ts, s, e)` for the transaction whose boundary event was queued in `slot` (R110). `d.last_end` moves
to `stop` whatever the form. -/
def onTransaction (slot : U4) (ts : U32) (start stop : U7) (s : State) : Result :=
  let len := txnLen start stop
  let (b0, b1, s') := fetchTxn slot start len (s.withLastEnd stop)
  runTxn (decodeTxn ts len b0 b1) (s'.clearTorn slot)

end Sys2Proof.Machine
end

