-- ==== Sys2Proof/Machine/Consumer.lean ====
section
/-!
DEFINITION. The consumer engine (41_event_queue.md R102, R103): one iteration checks for overflow, pops an event and
dispatches it, as one step (20_memory.md R61; log 2).
-/

namespace Sys2Proof.Machine

/-- `DISPATCH(e)` by the event's tag, for the event popped from `slot` (R103). -/
def dispatchEvent (slot : U4) (e : Event) (s : State) : Result :=
  match e.tag with
  | .spiTransactionEnded => onTransaction slot e.ts s.lastEnd e.endOffset s
  | .radioDone => signal (.done e.ts) s
  | .radioTimeout => signal (.timeout e.ts) s

/-- The part of CONSUMER_STEP after an overflow check that did not halt: pop, then dispatch (R102). -/
def popAndDispatch (s : State) : Result :=
  let s' := popEvent s
  match s'.ctl.popped with
  | none => .next s'
  | some e => dispatchEvent s.queue.tail e (s'.withPopped none)

/-- CONSUMER_STEP (R102). A halted consumer has no step (R186; log 10). -/
def execConsumerStep (s : State) : Result :=
  whenRunning s
    (if (overflowChecked s).ctl.halted then .next (overflowChecked s)
    else popAndDispatch (overflowChecked s))

end Sys2Proof.Machine
end

