-- ==== Sys2Proof/Machine/Dispatch.lean ====
section
/-!
DEFINITION. The meaning of each operation: one arm per constructor of Instr.
-/

namespace Sys2Proof.Machine

/-- One operation at a state. -/
def exec (i : Instr) (s : State) : Host.Outcome State Fault Refusal :=
  match i with
  | .pushSpi endOffset ts => Sys2Proof.Machine.execPushSpi endOffset ts s
  | .pushDone ts => Sys2Proof.Machine.execPushDone ts s
  | .pushTimeout ts => Sys2Proof.Machine.execPushTimeout ts s
  | .pop => Sys2Proof.Machine.execPop s
  | .overflowCheck => Sys2Proof.Machine.execOverflowCheck s
  | .consumerStep => Sys2Proof.Machine.execConsumerStep s
  | .spiEmpty => Sys2Proof.Machine.execSpiEmpty s
  | .fifoRead ts n => Sys2Proof.Machine.execFifoRead ts n s
  | .regWriteBadlen a len => Sys2Proof.Machine.execRegWriteBadlen a len s
  | .regRead a len => Sys2Proof.Machine.execRegRead a len s
  | .wrOpmode ts v => Sys2Proof.Machine.execWrOpmode ts v s
  | .wrModemconfig1 v => Sys2Proof.Machine.execWrModemconfig1 v s
  | .wrModemconfig2 v => Sys2Proof.Machine.execWrModemconfig2 v s
  | .wrSymbtimeoutlsb v => Sys2Proof.Machine.execWrSymbtimeoutlsb v s
  | .wrPreamblemsb v => Sys2Proof.Machine.execWrPreamblemsb v s
  | .wrPreamblelsb v => Sys2Proof.Machine.execWrPreamblelsb v s
  | .wrPayloadlength v => Sys2Proof.Machine.execWrPayloadlength v s
  | .wrModemconfig3 v => Sys2Proof.Machine.execWrModemconfig3 v s
  | .wrOther a v => Sys2Proof.Machine.execWrOther a v s
  | .tIdleTx ts => Sys2Proof.Machine.execTIdleTx ts s
  | .tTxDone ts => Sys2Proof.Machine.execTTxDone ts s
  | .tBrx1Rx ts => Sys2Proof.Machine.execTBrx1Rx ts s
  | .tRx1Done ts => Sys2Proof.Machine.execTRx1Done ts s
  | .tRx1Tmo ts => Sys2Proof.Machine.execTRx1Tmo ts s
  | .tBrx2Rx ts => Sys2Proof.Machine.execTBrx2Rx ts s
  | .tRx2Done ts => Sys2Proof.Machine.execTRx2Done ts s
  | .tRx2Tmo ts => Sys2Proof.Machine.execTRx2Tmo ts s
  | .tData ts n => Sys2Proof.Machine.execTData ts n s
  | .outOfSync stage x => Sys2Proof.Machine.execOutOfSync stage x s

end Sys2Proof.Machine
end

