-- ==== Sys2Proof/Machine/Environment.lean ====
section
/-!
DEFINITION. The moves of the agents between steps (00_scope.md R5, R6, R12), what an agent may do (60_exceptions.md
R191, R192), and where a word of the opcode table is placed so that the next step runs it.
-/

namespace Sys2Proof.Machine

/-- The agent whose operation an instruction is (R5, R191): each push belongs to its producer, everything else to the
consumer. -/
def agentOf : Instr → Agent
  | .pushSpi _ _ => .prodSpi
  | .pushDone _ => .prodDio0
  | .pushTimeout _ => .prodDio1
  | .pop | .overflowCheck | .consumerStep
  | .spiEmpty | .fifoRead _ _ | .regWriteBadlen _ _ | .regRead _ _
  | .wrOpmode _ _ | .wrModemconfig1 _ | .wrModemconfig2 _ | .wrSymbtimeoutlsb _
  | .wrPreamblemsb _ | .wrPreamblelsb _ | .wrPayloadlength _ | .wrModemconfig3 _ | .wrOther _ _
  | .tIdleTx _ | .tTxDone _ | .tBrx1Rx _ | .tRx1Done _ | .tRx1Tmo _
  | .tBrx2Rx _ | .tRx2Done _ | .tRx2Tmo _ | .tData _ _ | .outOfSync _ _ => .consumer

/-- An event word at a producer port: decoded, and pushed if the agent is that event's producer (R97–R99, R192). -/
def presentEvent (a : Agent) (w : EventWord) (s : State) : Result :=
  match decodeEvent w with
  | .error _ => .fault .unreachableEncoding
  | .ok i => if agentOf i = a then exec i s else .refused .contextViolation

/-- One move. -/
def runMove (m : Move) (s : State) : Result :=
  match m with
  | .dmaWrite off v => .next (s.dmaWrite off v)
  | .event a w => presentEvent a w s
  | .consume a => if a = .consumer then exec .consumerStep s else .refused .contextViolation
  | .reset => .next (resetBlock s)

/-- The next move: the first one scheduled, or with nothing scheduled the consumer's iteration (70_reset_and_hazards.md
R202, R212; log 1). -/
def nextMove (s : State) : Result :=
  match s.schedule with
  | [] => exec .consumerStep s
  | m :: rest => runMove m (s.withSchedule rest)

/-- What HALT_ACTION makes the environment do after a halt (60_exceptions.md R186; log 19). -/
def haltResponse : Config.HaltAction → List Move
  | .loop => []
  | .reset => [.reset]
  | .panic => []

/-- The report stream as text, by the open parameter RENDER; no claim observes it (00_scope.md R14, R15). -/
def State.rendering (s : State) : List String := s.out.map Config.render

/-! ## Placing a word of the opcode table (log 22) -/

/-- Schedule the push of an event word by the producer of its tag. -/
def State.placeEvent (s : State) (w : EventWord) : State :=
  let a := match decodeEvent w with
    | .ok i => agentOf i
    | .error _ => .prodSpi
  s.withSchedule (.event a w :: s.schedule)

/-- Make `e` the event the consumer pops next, with the consumer's turn coming and nothing in its way. -/
def State.placeQueued (s : State) (e : Event) : State :=
  { s with
    queue := { s.queue.slotWrite s.queue.tail e with
      head := if s.queue.empty then s.queue.tail + 1 else s.queue.head
      overflow := false }
    ctl := { s.ctl with halted := false }
    schedule := .consume .consumer :: s.schedule }

/-- Store bytes at rising offsets from `o` (R53). -/
def storeBytes : List Host.Cell → U7 → List Byte → List Host.Cell
  | m, _, [] => m
  | m, o, b :: bs => storeBytes (Memory.write m o.toNat b) (o + 1) bs

/-- Make a transaction of these bytes the next one the consumer decodes. -/
def State.placeTxn (s : State) (ts : U32) (bytes : List Byte) : State :=
  (({ s with capture := { s.capture with
        mem := storeBytes s.capture.mem s.lastEnd bytes } }).clearTorn s.queue.tail).placeQueued
    ⟨.spiTransactionEnded, s.lastEnd + BitVec.ofNat 7 bytes.length, ts⟩

/-- Make `x` arrive in stage `st` at the consumer's next turn: as an event, or as the transaction that signals it. The
OpMode value keeps the long-range flag. -/
def State.placeInput (s : State) (st : Stage) (x : Input) : State :=
  let s' := s.withFsm { s.fsm with stage := st }
  let lr : BitVec 1 := if s.params.longRange then 1 else 0
  match x with
  | .txStart ts => s'.placeTxn ts [writeCommand 0x01, lr ++ (0x03 : U7)]
  | .rxStart ts => s'.placeTxn ts [writeCommand 0x01, lr ++ (0x06 : U7)]
  | .done ts => s'.placeQueued ⟨.radioDone, 0, ts⟩
  | .timeout ts => s'.placeQueued ⟨.radioTimeout, 0, ts⟩
  | .fifoLen ts n => s'.placeTxn ts (0x00 :: List.replicate n.toNat 0)

/-- Place an encoded operation where the next step fetches it. A key no stage and input have is presented as the event
word that faults as an unreachable encoding. -/
def State.placeEncoded (s : State) (e : Encoded) : State :=
  match e with
  | .event w => s.placeEvent w
  | .txn ts bytes => s.placeTxn ts bytes
  | .key k ts n =>
    match Stage.ofCode (keyStageField k), InputKind.ofCode (keyInputField k) with
    | some st, some i => s.placeInput st (i.withOperands ts n)
    | _, _ => s.placeEvent (mkEventWord 3 0 0)
  | .internal _ => s.withSchedule (.consume .consumer :: s.schedule)

end Sys2Proof.Machine
end

