-- ==== Sys2Proof/Machine/Step.lean ====
section
/-!
DEFINITION. One step of the block (00_scope.md R12), and where a word of the opcode table stands so that the next
step fetches and runs it.
-/

namespace Sys2Proof.Machine

/-- One step: the next agent's move. -/
def step (s : State) : Host.Outcome State Fault Refusal := nextMove s

/-- The state with an instruction's table word stored where `step` fetches its next instruction (log 22); unchanged
where the table has no word of that width. -/
def State.withFetchWord (s : State) (nbits w : Nat) : State :=
  match tableEncoded nbits w with
  | none => s
  | some e => s.placeEncoded e

end Sys2Proof.Machine
end

