-- ==== Sys2Proof/Machine/Errors.lean ====
section
/-!
DEFINITION. Which operation raises which error class (60_exceptions.md R178, R179, the column "raised by"). The effect
of an error is its operation's own meaning; a MALFORMED case has none (R183).
-/

namespace Sys2Proof.Machine

/-- A ModemConfig1 value with a field out of range (R182). -/
def mc1Malformed (v : Byte) : Bool :=
  (acceptBwIndex (mc1BwIndex v)).isNone || (acceptCodingRate (mc1CodingRate v)).isNone

/-- A ModemConfig2 value with a field out of range (R182). -/
def mc2Malformed (v : Byte) : Bool := (acceptSpreadingFactor (mc2SpreadingFactor v)).isNone

/-- The error class an operation raises by itself (R179). What an operation makes another one raise (a signalled
input, an event dispatched by CONSUMER_STEP) is raised by that one. -/
def errorRaised (i : Instr) (s : State) : Option ErrorClass :=
  match i with
  | .pushSpi _ _ | .pushDone _ | .pushTimeout _ => if s.queue.full then some .overflow else none
  | .overflowCheck => if s.queue.overflow then some .overflow else none
  | .regWriteBadlen _ _ => some .malformed
  | .wrModemconfig1 v => if mc1Malformed v then some .malformed else none
  | .wrModemconfig2 v => if mc2Malformed v then some .malformed else none
  | .outOfSync _ _ => some .outOfSync
  | .pop | .consumerStep | .spiEmpty | .fifoRead _ _ | .regRead _ _
  | .wrOpmode _ _ | .wrSymbtimeoutlsb _ | .wrPreamblemsb _ | .wrPreamblelsb _ | .wrPayloadlength _
  | .wrModemconfig3 _ | .wrOther _ _
  | .tIdleTx _ | .tTxDone _ | .tBrx1Rx _ | .tRx1Done _ | .tRx1Tmo _
  | .tBrx2Rx _ | .tRx2Done _ | .tRx2Tmo _ | .tData _ _ => none

end Sys2Proof.Machine
end

