-- ==== Sys2Proof/Safety.lean ====
section
/-!
DEFINITION. The terms claims about the block use: what is observed (00_scope.md R15), when a run has ended well
(70_reset_and_hazards.md R213), the invariant of every reachable state, and the frames that say what an operation
leaves alone.
-/

namespace Sys2Proof.Machine

/-! ## Observation and the end of a run -/

/-- What a claim observes beside the state: the records, the `halt` output and the `overflow` status (R15). -/
structure Observation where
  records : List Report
  halt : Bool
  overflow : Bool
deriving DecidableEq, Repr

/-- The observation of a state. -/
def State.observe (s : State) : Observation := ⟨s.out, s.haltPort, s.overflowPort⟩

/-- A run has ended successfully: every pushed event is consumed and the consumer has not halted (R213). -/
def State.endedWell (s : State) : Bool := s.queue.empty && !s.ctl.halted

/-! ## Turns -/

/-- It is the consumer's turn: by the schedule, or because nothing is scheduled (70_reset_and_hazards.md R202); `rest`
is what stays scheduled. -/
def State.consumerTurn (s : State) (rest : List Move) : Prop :=
  (s.schedule = [] ∧ rest = []) ∨ s.schedule = .consume .consumer :: rest

/-- The next move is a reset. -/
def State.resetNext (s : State) : Prop := ∃ rest, s.schedule = .reset :: rest

/-- The consumer is about to pop an event: it has not halted, no overflow is recorded, the queue holds an event
(41_event_queue.md R102). -/
def State.aboutToPop (s : State) : Prop :=
  s.ctl.halted = false ∧ s.queue.overflow = false ∧ s.queue.head ≠ s.queue.tail

/-- The event the consumer pops next. -/
def State.frontEvent (s : State) : Event := s.queue.slotRead s.queue.tail

/-- No byte of the transaction queued in `slot` was overwritten: the environment kept its stability duty (20_memory.md
R67). -/
def State.stableSlot (s : State) (slot : U4) : Prop := ∀ b ∈ s.capture.torn, b.slot ≠ slot

/-- The state after the consumer has taken the front event, before it acts on it; `rest` stays scheduled. -/
def State.afterPop (s : State) (rest : List Move) : State :=
  { s with
    queue := { s.queue with tail := s.queue.tail + 1 }
    ctl := { s.ctl with popped := none }
    schedule := rest }

/-- The stage in which a transition row of the table runs; none for the catch-all and every other operation
(44_timing_fsm.md R137). -/
def rowStage : Instr → Option Stage
  | .tIdleTx _ => some .idle
  | .tTxDone _ => some .transmitting
  | .tBrx1Rx _ => some .beforeRx1
  | .tRx1Done _ => some .inRx1
  | .tRx1Tmo _ => some .inRx1
  | .tBrx2Rx _ => some .beforeRx2
  | .tRx2Done _ => some .inRx2
  | .tRx2Tmo _ => some .inRx2
  | .tData _ _ => some .awaitingData
  | .pushSpi _ _ | .pushDone _ | .pushTimeout _ | .pop | .overflowCheck | .consumerStep
  | .spiEmpty | .fifoRead _ _ | .regWriteBadlen _ _ | .regRead _ _
  | .wrOpmode _ _ | .wrModemconfig1 _ | .wrModemconfig2 _ | .wrSymbtimeoutlsb _
  | .wrPreamblemsb _ | .wrPreamblelsb _ | .wrPayloadlength _ | .wrModemconfig3 _ | .wrOther _ _
  | .outOfSync _ _ => none

/-! ## Queue histories (41_event_queue.md R104) -/

/-- One operation on the queue. -/
inductive QueueOp where
  | push (e : Event)
  | pop
deriving DecidableEq, Repr

/-- The events a history pushes, in push order. -/
def pushedEvents : List QueueOp → List Event
  | [] => []
  | .push e :: ops => e :: pushedEvents ops
  | .pop :: ops => pushedEvents ops

/-- The events a history pops, in pop order, and the queue after it. -/
def runQueue : Queue → List QueueOp → List Event × Queue
  | q, [] => ([], q)
  | q, .push e :: ops => runQueue (q.push e) ops
  | q, .pop :: ops => (q.pop.1.toList ++ (runQueue q.pop.2 ops).1, (runQueue q.pop.2 ops).2)

/-! ## Parameters nothing reads -/

/-- The state with the two parameters no rule reads set to fixed values (45_timing_arithmetic.md R168). -/
def State.eraseUnread (s : State) : State :=
  { s with params := { s.params with crc := false, longRange := false } }

/-- An outcome with its next state mapped. -/
def mapNext (f : State → State) : Result → Result
  | .next t => .next (f t)
  | .fault r => .fault r
  | .refused r => .refused r

/-! ## The invariant -/

/-- The ranges of the parameters (10_state.md R27, R28, R35). -/
abbrev Params.inRange (p : Params) : Prop :=
  (6 ≤ p.sf.toNat ∧ p.sf.toNat ≤ 12) ∧ (5 ≤ p.cr.toNat ∧ p.cr.toNat ≤ 8) ∧ p.symbTimeout.toNat ≤ 1023

/-- Only an SPI event has an end offset (30_encoding.md R85). -/
abbrev Queue.endOffsetsClear (q : Queue) : Prop :=
  ∀ e ∈ q.slot.toList, e.tag ≠ .spiTransactionEnded → e.endOffset = 0

/-- While fewer than 20 samples are held, the next push writes the slot after them (46_rolling_average.md R174). -/
abbrev Rolling.aligned (r : Rolling) : Prop := r.count.val < 20 → r.next.val = r.count.val

/-- In AwaitingData the result names a window (44_timing_fsm.md R146). -/
abbrev Fsm.windowKnown (f : Fsm) : Prop := f.stage = .awaitingData → f.result ≠ .noDownlink

/-- What holds of every state the block reaches. -/
structure State.Inv (s : State) : Prop where
  params : s.params.inRange
  endOffsets : s.queue.endOffsetsClear
  ra1 : s.ra1.aligned
  ra2 : s.ra2.aligned
  window : s.fsm.windowKnown
  /-- The consumer halts only on the sticky overflow flag (60_exceptions.md R185, R187). -/
  haltOnOverflow : s.ctl.halted = true → s.queue.overflow = true
  /-- POP's result does not outlive its step (log 8). -/
  latch : s.ctl.popped = none
  memory : Memory.wf s.capture.mem

/-! ## Frames -/

/-- Every byte of the capture buffer reads as before. -/
def SameMemory (s t : State) : Prop := ∀ o : U7, t.capture.byteAt o = s.capture.byteAt o

/-- Outside the block's own registers nothing changed: the capture buffer, the run's parameters, the schedule. -/
def SameSurroundings (s t : State) : Prop :=
  SameMemory s t ∧ t.capture = s.capture ∧ t.cfg = s.cfg ∧ t.schedule = s.schedule

/-- Only the Radio Parameter Set may have changed. -/
def OnlyParams (s t : State) : Prop :=
  t.queue = s.queue ∧ t.lastEnd = s.lastEnd ∧ t.fsm = s.fsm ∧ t.ra1 = s.ra1 ∧ t.ra2 = s.ra2 ∧ t.ctl = s.ctl ∧
    t.out = s.out ∧ SameSurroundings s t

/-- Only the Event Queue may have changed. -/
def OnlyQueue (s t : State) : Prop :=
  t.lastEnd = s.lastEnd ∧ t.params = s.params ∧ t.fsm = s.fsm ∧ t.ra1 = s.ra1 ∧ t.ra2 = s.ra2 ∧ t.ctl = s.ctl ∧
    t.out = s.out ∧ SameSurroundings s t

/-- Only the control bits may have changed. -/
def OnlyControl (s t : State) : Prop :=
  t.queue = s.queue ∧ t.lastEnd = s.lastEnd ∧ t.params = s.params ∧ t.fsm = s.fsm ∧ t.ra1 = s.ra1 ∧
    t.ra2 = s.ra2 ∧ t.out = s.out ∧ SameSurroundings s t

/-- Beside the state machine and the report stream, only the rolling averages may have changed. -/
def OnlyFsmRaOut (s t : State) : Prop :=
  t.queue = s.queue ∧ t.lastEnd = s.lastEnd ∧ t.params = s.params ∧ t.ctl = s.ctl ∧ SameSurroundings s t

/-- Only the state machine and the report stream may have changed. -/
def OnlyFsmOut (s t : State) : Prop := OnlyFsmRaOut s t ∧ t.ra1 = s.ra1 ∧ t.ra2 = s.ra2

end Sys2Proof.Machine
end

