-- ==== Sys2Proof/Certificates/Slice0/Obligations.lean ====
section
/-!
DEFINITION. The statements about the block, one `def Obligations.<Name> : Prop` each; what each rests on is in its
docstring and in OBLIGATIONS.json.
-/

open Sys2Proof Sys2Proof.Machine

/-- Decoding the encoding of a well-formed operation gives it back. For every well-formed operation of the block,
with every operand at every value its encoding admits, decode (encode i) is i. The encoder is the model's own,
written from the encoding tables. (Derived from 30_encoding.md R73; 30_encoding.md R74; 30_encoding.md R75;
30_encoding.md R85; 30_encoding.md R88.) -/
def Obligations.DecodeEncodeRoundTrip : Prop :=
  ∀ i : Instr, i.wellFormed = true → decode (encode i) = .ok i

/-- Every transaction decodes, by its length modulo 128, and whatever decodes is well-formed. Every byte sequence of
a transaction decodes, whatever its length: 128 bytes, or any multiple, are SPI_EMPTY, and otherwise only the
last L mod 128 bytes count, since later bytes overwrite earlier ones in the capture buffer (that these are the
last ones is deduced, log 25). If decode accepts an encoding of any of the four spaces and answers i, then i
meets its side conditions: a FIFO length of at most 126, the length conditions of the transaction forms, an
address without a handler for WR_OTHER, a pair without a table row for OUT_OF_SYNC. The bound 126 on the length
operand of a key is the model's (log 23). (Derived from 30_encoding.md R89; 70_reset_and_hazards.md R206;
30_encoding.md R73; 30_encoding.md R75; 30_encoding.md R94; 44_timing_fsm.md R148.) -/
def Obligations.DecodedOperationsAreWellFormed : Prop :=
  (∀ (ts : U32) (bytes : List Byte), ∃ i, decode (.txn ts bytes) = .ok i) ∧
    (∀ (ts : U32) (bytes : List Byte), bytes.length % 128 = 0 → decode (.txn ts bytes) = .ok .spiEmpty) ∧
    (∀ (ts : U32) (early late : List Byte), early.length % 128 = 0 → late.length < 128 →
      decode (.txn ts (early ++ late)) = decode (.txn ts late)) ∧
    ∀ (e : Encoded) (i : Instr), decode e = .ok i → i.wellFormed = true

/-- Length and first byte of a transaction select its form. For every length L and first two bytes: L = 0 is
SPI_EMPTY; L at least 1 and b[0] = 0 is FIFO_READ of L - 1; L = 2 and b[0] at least 0x80 is a register write of
b[1] to the low seven bits of b[0]; L at least 1, not 2, and b[0] at least 0x80 is REG_WRITE_BADLEN; L at least
1 and b[0] in 1..0x7F is REG_READ. Exactly one of the five conditions holds. (States R73.) -/
def Obligations.TransactionFormsByLengthAndFirstByte : Prop :=
  ∀ (ts : U32) (len : U7) (b0 b1 : Byte),
    (len.toNat = 0 → decodeTxn ts len b0 b1 = .spiEmpty) ∧
    (1 ≤ len.toNat → b0.toNat = 0 → decodeTxn ts len b0 b1 = .fifoRead ts (BitVec.ofNat 7 (len.toNat - 1))) ∧
    (len.toNat = 2 → 128 ≤ b0.toNat →
      decodeTxn ts len b0 b1 = decodeWrite ts (BitVec.ofNat 7 (b0.toNat - 128)) b1) ∧
    (1 ≤ len.toNat → len.toNat ≠ 2 → 128 ≤ b0.toNat →
      decodeTxn ts len b0 b1 = .regWriteBadlen (BitVec.ofNat 7 (b0.toNat - 128)) len) ∧
    (1 ≤ len.toNat → 1 ≤ b0.toNat → b0.toNat < 128 →
      decodeTxn ts len b0 b1 = .regRead (BitVec.ofNat 7 b0.toNat) len) ∧
    ([decide (len.toNat = 0), decide (1 ≤ len.toNat ∧ b0.toNat = 0), decide (len.toNat = 2 ∧ 128 ≤ b0.toNat),
      decide (1 ≤ len.toNat ∧ len.toNat ≠ 2 ∧ 128 ≤ b0.toNat),
      decide (1 ≤ len.toNat ∧ 1 ≤ b0.toNat ∧ b0.toNat < 128)].count true = 1)

/-- The first byte of a two-byte write selects its handler. A two-byte transaction whose first byte is 0x81, 0x9D,
0x9E, 0x9F, 0xA0, 0xA1, 0xA2 or 0xA6 decodes to the handler of that register with the second byte as value; any
other first byte from 0x80 up decodes to WR_OTHER. (States R75.) -/
def Obligations.TwoByteWritesReachTheirHandlers : Prop :=
  ∀ (ts : U32) (v b : Byte),
    decode (.txn ts [0x81, v]) = .ok (.wrOpmode ts v) ∧
    decode (.txn ts [0x9D, v]) = .ok (.wrModemconfig1 v) ∧
    decode (.txn ts [0x9E, v]) = .ok (.wrModemconfig2 v) ∧
    decode (.txn ts [0x9F, v]) = .ok (.wrSymbtimeoutlsb v) ∧
    decode (.txn ts [0xA0, v]) = .ok (.wrPreamblemsb v) ∧
    decode (.txn ts [0xA1, v]) = .ok (.wrPreamblelsb v) ∧
    decode (.txn ts [0xA2, v]) = .ok (.wrPayloadlength v) ∧
    decode (.txn ts [0xA6, v]) = .ok (.wrModemconfig3 v) ∧
    (128 ≤ b.toNat → b ∉ ([0x81, 0x9D, 0x9E, 0x9F, 0xA0, 0xA1, 0xA2, 0xA6] : List Byte) →
      decode (.txn ts [b, v]) = .ok (.wrOther (BitVec.ofNat 7 (b.toNat - 128)) v))

/-- The 6-bit keys select the nine transitions, else out-of-sync. The nine keys of the table decode to their
transition rows; every other key with a stage code up to 6 and an input code up to 4 decodes to OUT_OF_SYNC with
that stage and input; a stage code of 7 and an input code above 4 are rejected by name. The length operand is at
most 126. (Derived from 30_encoding.md R88; 30_encoding.md R92; 44_timing_fsm.md R137; 44_timing_fsm.md R148.) -/
def Obligations.KeysSelectTheTransitionTable : Prop :=
  ∀ (k : Key) (ts : U32) (n : U7), n.toNat ≤ 126 →
    (k = 0b000000 → decode (.key k ts n) = .ok (.tIdleTx ts)) ∧
    (k = 0b001010 → decode (.key k ts n) = .ok (.tTxDone ts)) ∧
    (k = 0b010001 → decode (.key k ts n) = .ok (.tBrx1Rx ts)) ∧
    (k = 0b011010 → decode (.key k ts n) = .ok (.tRx1Done ts)) ∧
    (k = 0b011011 → decode (.key k ts n) = .ok (.tRx1Tmo ts)) ∧
    (k = 0b100001 → decode (.key k ts n) = .ok (.tBrx2Rx ts)) ∧
    (k = 0b101010 → decode (.key k ts n) = .ok (.tRx2Done ts)) ∧
    (k = 0b101011 → decode (.key k ts n) = .ok (.tRx2Tmo ts)) ∧
    (k = 0b110100 → decode (.key k ts n) = .ok (.tData ts n)) ∧
    (k.toNat / 8 ≤ 6 → k.toNat % 8 ≤ 4 →
      k ∉ ([0b000000, 0b001010, 0b010001, 0b011010, 0b011011, 0b100001, 0b101010, 0b101011, 0b110100] : List Key) →
      ∃ st x, decode (.key k ts n) = .ok (.outOfSync st x) ∧ st.code.toNat = k.toNat / 8 ∧
        x.kind.code.toNat = k.toNat % 8 ∧ x.ts = ts ∧ (k.toNat % 8 = 4 → x = .fifoLen ts n)) ∧
    (k.toNat / 8 = 7 → decode (.key k ts n) = .error .stageCode7) ∧
    (k.toNat / 8 ≤ 6 → 5 ≤ k.toNat % 8 → decode (.key k ts n) = .error .inputCode)

/-- The 41-bit event word holds tag, end offset and timestamp. A word whose value is tag * 2^39 + end * 2^32 + ts
decodes by its tag: 0 to PUSH_SPI of end and ts, 1 to PUSH_DONE of ts, 2 to PUSH_TIMEOUT of ts, and 3 is
rejected. That the end-offset bits of tags 1 and 2 are not read is the model's choice (log 12). (Derived from
30_encoding.md R85; opcode_table.json rows PUSH_SPI, PUSH_DONE, PUSH_TIMEOUT.) -/
def Obligations.EventWordFieldsDecode : Prop :=
  ∀ (w : EventWord) (e : U7) (ts : U32),
    (w.toNat = e.toNat * 2 ^ 32 + ts.toNat → decode (.event w) = .ok (.pushSpi e ts)) ∧
    (w.toNat = 2 ^ 39 + e.toNat * 2 ^ 32 + ts.toNat → decode (.event w) = .ok (.pushDone ts)) ∧
    (w.toNat = 2 * 2 ^ 39 + e.toNat * 2 ^ 32 + ts.toNat → decode (.event w) = .ok (.pushTimeout ts)) ∧
    (3 * 2 ^ 39 ≤ w.toNat → decode (.event w) = .error .eventTag3)

/-- Words written out from the spec's vectors decode to what they stand for. Sanity: event words V-E1 to V-E3, the
transactions of S4, S6, V-D8 and V-D12, the write word of V-W11 and two transition keys decode to the operations
the spec names. (Derived from 95_test_vectors.md V-E1; 95_test_vectors.md V-E2; 95_test_vectors.md V-E3;
95_test_vectors.md S4; 95_test_vectors.md S6; 95_test_vectors.md V-D8; 95_test_vectors.md V-D12;
95_test_vectors.md V-W11; 95_test_vectors.md V-F13.) -/
def Obligations.SpecWordsDecode : Prop :=
  decode (.event 0x00200000000) = .ok (.pushSpi 2 0) ∧
    decode (.event 0x08000006500) = .ok (.pushDone 25856) ∧
    decode (.event 0x10000112A88) = .ok (.pushTimeout 1125000) ∧
    decode (.txn 7 [0x81, 0x03]) = .ok (.wrOpmode 7 0x03) ∧
    decode (.txn 7 [0x00, 0x11, 0x22, 0x33]) = .ok (.fifoRead 7 3) ∧
    decode (.txn 7 [0x81]) = .ok (.regWriteBadlen 0x01 1) ∧
    decode (.txn 7 [0x42, 0x12]) = .ok (.regRead 0x42 2) ∧
    decode (.txn 7 [0x9E, 0xC4]) = .ok (.wrModemconfig2 0xC4) ∧
    decode (.key 0b101011 7 0) = .ok (.tRx2Tmo 7) ∧
    decode (.key 0b001000 7 0) = .ok (.outOfSync .transmitting (.txStart 7))

/-- A step runs the operation an event word at its producer's port decodes to. If the next move is an event word
presented by the agent whose operation it decodes to, the step is exec of that operation at the state with the
move taken off the schedule. The schedule is the model's (log 1). (Derived from 00_scope.md R6; 00_scope.md R12;
41_event_queue.md R97; 41_event_queue.md R98; 41_event_queue.md R99.) -/
def Obligations.StepRunsThePresentedEvent : Prop :=
  ∀ (s : State) (a : Agent) (w : EventWord) (rest : List Move) (i : Instr),
    s.schedule = .event a w :: rest → decode (.event w) = .ok i → agentOf i = a →
    step s = exec i { s with schedule := rest }

/-- A consumer step runs the operation its front transaction's bytes decode to. At the consumer's turn, with an SPI
event at the front of the queue whose bytes in the capture buffer from d.last_end up to its end offset decode to
i, and none of these bytes overwritten since the event was queued, the step is exec of i at the state with the
event popped and d.last_end moved to the end offset. (Derived from 41_event_queue.md R102; 41_event_queue.md
R103; 42_spi_decoder.md R110; 20_memory.md R54.) -/
def Obligations.StepRunsTheDecodedTransaction : Prop :=
  ∀ (s : State) (rest : List Move) (i : Instr),
    s.consumerTurn rest → s.aboutToPop → s.frontEvent.tag = .spiTransactionEnded → s.stableSlot s.queue.tail →
    decode (.txn s.frontEvent.ts (s.capture.bytes s.lastEnd s.frontEvent.endOffset)) = .ok i →
    step s = exec i { s.afterPop rest with lastEnd := s.frontEvent.endOffset }

/-- A consumer step on a radio edge runs the transition its key decodes to. At the consumer's turn, with a RadioDone
or RadioTimeout event at the front of the queue, the step is exec of the row that the key of the current stage
and of DONE or TIMEOUT decodes to, with the event's timestamp, at the state with the event popped. (Derived from
41_event_queue.md R102; 41_event_queue.md R103; 44_timing_fsm.md R136; 44_timing_fsm.md R137; 30_encoding.md
R88.) -/
def Obligations.StepRunsTheSelectedTransition : Prop :=
  ∀ (s : State) (rest : List Move) (i : Instr), s.consumerTurn rest → s.aboutToPop →
    (s.frontEvent.tag = .radioDone → decode (.key (mkKey s.fsm.stage .done) s.frontEvent.ts 0) = .ok i →
      step s = exec i (s.afterPop rest)) ∧
    (s.frontEvent.tag = .radioTimeout → decode (.key (mkKey s.fsm.stage .timeout) s.frontEvent.ts 0) = .ok i →
      step s = exec i (s.afterPop rest))

/-- The consumer's turn, unreachable words and context violations. The consumer's turn runs CONSUMER_STEP; a turn of
the consumer taken by a producer, and a push by an agent that is not its producer, are refused; an event word
with tag 11 faults. (Derived from 60_exceptions.md R191; 60_exceptions.md R192; 30_encoding.md R92;
93_implementation_defined.md I3; 93_implementation_defined.md I4.) -/
def Obligations.StepsOfTheEnvironmentAndContexts : Prop :=
  ∀ (s : State) (a : Agent) (w : EventWord) (rest : List Move) (i : Instr),
    (s.consumerTurn rest → step s = exec .consumerStep { s with schedule := rest }) ∧
    (s.schedule = .consume a :: rest → a ≠ .consumer → step s = .refused .contextViolation) ∧
    (s.schedule = .event a w :: rest → decode (.event w) = .ok i → agentOf i ≠ a →
      step s = .refused .contextViolation) ∧
    (s.schedule = .event a w :: rest → 3 * 2 ^ 39 ≤ w.toNat → step s = .fault .unreachableEncoding)

/-- The three pushes: a slot and the head, or the sticky flag. PUSH_SPI, PUSH_DONE and PUSH_TIMEOUT always complete.
If the queue is not full the event record goes to the slot at head, head advances modulo 16 and every other
slot, the tail and the flag stay. If it is full the overflow flag is set and head, tail and every slot stay.
Only on a full queue does the push raise an error, of class OVERFLOW. Nothing but the queue changes, and every
byte of the capture buffer reads as before. (States R96; R97; R98; R99.) -/
def Obligations.PushWritesTheNextSlotOrOverflows : Prop :=
  ∀ (s : State) (i : Instr) (e : Event),
    ((∃ o ts, i = .pushSpi o ts ∧ e = ⟨.spiTransactionEnded, o, ts⟩) ∨
      (∃ ts, i = .pushDone ts ∧ e = ⟨.radioDone, 0, ts⟩) ∨
      (∃ ts, i = .pushTimeout ts ∧ e = ⟨.radioTimeout, 0, ts⟩)) →
    ∃ t, exec i s = .next t ∧ OnlyQueue s t ∧
      ((s.queue.head.toNat + 1) % 16 ≠ s.queue.tail.toNat →
        t.queue.slotRead s.queue.head = e ∧
        (∀ j, j ≠ s.queue.head → t.queue.slotRead j = s.queue.slotRead j) ∧
        t.queue.head.toNat = (s.queue.head.toNat + 1) % 16 ∧ t.queue.tail = s.queue.tail ∧
        t.queue.overflow = s.queue.overflow ∧ errorRaised i s = none) ∧
      ((s.queue.head.toNat + 1) % 16 = s.queue.tail.toNat →
        t.queue.overflow = true ∧ t.queue.head = s.queue.head ∧ t.queue.tail = s.queue.tail ∧
        (∀ j, t.queue.slotRead j = s.queue.slotRead j) ∧ errorRaised i s = some .overflow)

/-- A push appends to the queue's contents unless 15 events are held. The occupancy never exceeds 15. Below 15 a
push appends its event to the logical contents and leaves the overflow flag; at 15 it leaves the contents and
sets the flag. (Derived from 10_state.md R23; 41_event_queue.md R95; 41_event_queue.md R96.) -/
def Obligations.PushAppendsToTheContents : Prop :=
  ∀ (q : Queue) (e : Event), q.count ≤ 15 ∧
    (q.count < 15 → (q.push e).contents = q.contents ++ [e] ∧ (q.push e).overflow = q.overflow) ∧
    (q.count = 15 → (q.push e).contents = q.contents ∧ (q.push e).overflow = true)

/-- A pop takes the oldest event of the queue's contents. On an empty queue POP answers none and changes nothing;
otherwise it answers the first event of the logical contents and leaves the rest. (Derived from 10_state.md R23;
41_event_queue.md R100.) -/
def Obligations.PopTakesTheOldest : Prop :=
  ∀ q : Queue, (q.contents = [] → q.pop = (none, q)) ∧
    (∀ e es, q.contents = e :: es → q.pop.1 = some e ∧ q.pop.2.contents = es ∧
      q.pop.2.head = q.head ∧ q.pop.2.overflow = q.overflow)

/-- Without overflow, events are popped in push order, each exactly once. For every history of pushes and pops from
a queue with overflow = 0 that still has overflow = 0 at its end (so no push met a full queue), what was queued
followed by what was pushed is what was popped followed by what is still queued. (States R104.) -/
def Obligations.EventsArePoppedInPushOrder : Prop :=
  ∀ (q : Queue) (ops : List QueueOp), q.overflow = false → (runQueue q ops).2.overflow = false →
    q.contents ++ pushedEvents ops = (runQueue q ops).1 ++ (runQueue q ops).2.contents

/-- Sixteen pushes without a pop: fifteen are queued, the sixteenth is lost. From an empty queue with overflow = 0,
fifteen pushes leave exactly these fifteen events queued and overflow = 0; a sixteenth sets overflow and changes
no slot, not the head and not the contents. (States R105.) -/
def Obligations.SixteenthPushOverflowsWithoutCorruption : Prop :=
  ∀ (q : Queue) (es : List Event) (e : Event), q.overflow = false → q.head = q.tail → es.length = 15 →
    (es.foldl Queue.push q).contents = es ∧ (es.foldl Queue.push q).overflow = false ∧
    ((es.foldl Queue.push q).push e).overflow = true ∧ ((es.foldl Queue.push q).push e).contents = es ∧
    ((es.foldl Queue.push q).push e).head = (es.foldl Queue.push q).head ∧
    ∀ j, ((es.foldl Queue.push q).push e).slotRead j = (es.foldl Queue.push q).slotRead j

/-- POP: the event at tail, and tail advances; or nothing on an empty queue. For a running consumer POP completes:
on an empty queue its result is none and nothing else changes; otherwise its result is the slot at tail and tail
advances modulo 16, while head, slots and overflow stay. Nothing else changes. That the result stands in a latch
is the model's choice (log 8). (Derived from 41_event_queue.md R100.) -/
def Obligations.PopOperationResult : Prop :=
  ∀ s : State, s.ctl.halted = false → ∃ t, exec .pop s = .next t ∧
    t.lastEnd = s.lastEnd ∧ t.params = s.params ∧ t.fsm = s.fsm ∧ t.ra1 = s.ra1 ∧ t.ra2 = s.ra2 ∧
    t.out = s.out ∧ t.ctl.halted = s.ctl.halted ∧ SameSurroundings s t ∧
    t.queue.head = s.queue.head ∧ t.queue.slot = s.queue.slot ∧ t.queue.overflow = s.queue.overflow ∧
    (s.queue.head = s.queue.tail → t.ctl.popped = none ∧ t.queue.tail = s.queue.tail) ∧
    (s.queue.head ≠ s.queue.tail → t.ctl.popped = some (s.queue.slotRead s.queue.tail) ∧
      t.queue.tail.toNat = (s.queue.tail.toNat + 1) % 16)

/-- OVERFLOW_CHECK sets halted exactly when overflow is set. For a running consumer OVERFLOW_CHECK completes: with
overflow = 1 it sets c.halted, with overflow = 0 it changes nothing; it never changes anything else. The latch
of POP's result, which it leaves alone too, is the model's own (log 8). (Derived from 41_event_queue.md R101;
60_exceptions.md R185.) -/
def Obligations.OverflowCheckResult : Prop :=
  ∀ s : State, s.ctl.halted = false → ∃ t, exec .overflowCheck s = .next t ∧ OnlyControl s t ∧
    t.ctl.halted = s.queue.overflow ∧ t.ctl.popped = s.ctl.popped

/-- CONSUMER_STEP on an empty queue without overflow changes nothing. For a running consumer with overflow = 0 and
an empty queue, CONSUMER_STEP completes with the same state. The premise that the latch is empty is an invariant
of the model (log 8). (Derived from 41_event_queue.md R102; 70_reset_and_hazards.md R212.) -/
def Obligations.IdleStepChangesNothing : Prop :=
  ∀ s : State, s.ctl.halted = false → s.queue.overflow = false → s.queue.head = s.queue.tail → s.ctl.popped = none →
    exec .consumerStep s = .next s

/-- CONSUMER_STEP with overflow recorded halts and pops nothing. For a running consumer with overflow = 1,
CONSUMER_STEP completes by setting c.halted; the queue with its tail, and everything else, stays: no queued
event is dispatched. The latch of POP's result, which stays too, is the model's own (log 8). (Derived from
41_event_queue.md R101; 41_event_queue.md R102; 60_exceptions.md R185; 60_exceptions.md R188.) -/
def Obligations.OverflowHaltsBeforeAnyPop : Prop :=
  ∀ s : State, s.ctl.halted = false → s.queue.overflow = true →
    ∃ t, exec .consumerStep s = .next t ∧ OnlyControl s t ∧ t.ctl.halted = true ∧ t.ctl.popped = s.ctl.popped

/-- CONSUMER_STEP of a running consumer always answers a next state and takes the front event. Whatever the stage,
the parameters, the captured bytes and the queue, CONSUMER_STEP of a consumer that has not halted never faults
and is never refused; if it finds an event and no overflow, it takes that event: tail advances by one modulo 16
and the consumer stays running. That the step leaves the latch of POP's result empty is the model's choice (log
8): the latch is no element of the spec. (Derived from 41_event_queue.md R102; 20_memory.md R65; 30_encoding.md
R94.) -/
def Obligations.RunningConsumerAlwaysCompletes : Prop :=
  ∀ s : State, s.ctl.halted = false → ∃ t, exec .consumerStep s = .next t ∧
    (s.aboutToPop → t.queue.tail.toNat = (s.queue.tail.toNat + 1) % 16 ∧ t.ctl.halted = false ∧ t.ctl.popped = none)

/-- Once halted, the consumer takes no step and only reset leaves the halt. In a halted state every operation of the
consumer faults as overflow, the fault of the error class OVERFLOW with code 3, the one class that is not
recoverable; and a step that answers a next state is a reset, or leaves halted, the tail, the decoder position,
the parameters, the state machine, the rolling averages and the report stream as they were. That the halted
consumer's step is a fault of the model is the spec's own reading (R186, log 10). (Derived from 60_exceptions.md
R186; 60_exceptions.md R187; 41_event_queue.md R106; 60_exceptions.md R179.) -/
def Obligations.HaltIsAbsorbing : Prop :=
  ∀ s : State, s.ctl.halted = true →
    (∀ i, agentOf i = .consumer → exec i s = .fault .overflow) ∧
    Fault.overflow.errorCode = some 3 ∧ (∀ c : ErrorClass, c.recoverable = false ↔ c.code = 3) ∧
    (∀ t, step s = .next t → s.resetNext ∨
      (t.ctl = s.ctl ∧ t.queue.tail = s.queue.tail ∧ t.lastEnd = s.lastEnd ∧ t.params = s.params ∧ t.fsm = s.fsm ∧
        t.ra1 = s.ra1 ∧ t.ra2 = s.ra2 ∧ t.out = s.out))

/-- Only reset clears halted and overflow, and a further overflow while halted is not observable. If a step other
than a reset answers a next state, an overflow flag that was set is still set and a consumer that was halted is
still halted; after a reset both are clear. In a halted state with overflow = 1 an event presented at a port
changes neither the records nor the halt and overflow outputs, whether it fits or is lost. (States R187.) -/
def Obligations.OverflowFlagIsSticky : Prop :=
  ∀ s t : State, step s = .next t →
    (s.queue.overflow = true → ¬ s.resetNext → t.queue.overflow = true) ∧
    (s.ctl.halted = true → ¬ s.resetNext → t.ctl.halted = true) ∧
    (s.resetNext → t.queue.overflow = false ∧ t.ctl.halted = false) ∧
    (s.ctl.halted = true → s.queue.overflow = true → (∃ a w rest, s.schedule = .event a w :: rest) →
      t.observe = s.observe)

/-- Producers write head, slots and overflow; the consumer writes everything else. A producer's push changes no
element of the consumer: not the tail, the decoder position, the parameters, the state machine, the rolling
averages, the control bit or the report stream. The consumer's step changes no head, slot or overflow flag. A
DMA write changes no element of the block at all. (States R47.) -/
def Obligations.EachElementHasOneWritingAgent : Prop :=
  ∀ (s t : State), step s = .next t →
    (∀ a w rest, s.schedule = .event a w :: rest →
      t.queue.tail = s.queue.tail ∧ t.lastEnd = s.lastEnd ∧ t.params = s.params ∧ t.fsm = s.fsm ∧ t.ra1 = s.ra1 ∧
        t.ra2 = s.ra2 ∧ t.ctl = s.ctl ∧ t.out = s.out) ∧
    (∀ rest, s.consumerTurn rest →
      t.queue.head = s.queue.head ∧ t.queue.slot = s.queue.slot ∧ t.queue.overflow = s.queue.overflow) ∧
    (∀ o v rest, s.schedule = .dmaWrite o v :: rest →
      t.queue = s.queue ∧ t.lastEnd = s.lastEnd ∧ t.params = s.params ∧ t.fsm = s.fsm ∧ t.ra1 = s.ra1 ∧
        t.ra2 = s.ra2 ∧ t.ctl = s.ctl ∧ t.out = s.out)

/-- SPI_EMPTY, REG_WRITE_BADLEN, REG_READ and WR_OTHER change nothing. For a running consumer these four forms
complete with the state they were given, whatever the address, the length and the value: no parameter, register
or byte changes and no record is emitted. Of the four, only REG_WRITE_BADLEN is an error, of class MALFORMED
with code 2, recoverable and silent. (Derived from 42_spi_decoder.md R111; 42_spi_decoder.md R114;
42_spi_decoder.md R115; 43_register_writes.md R131; 60_exceptions.md R178; 60_exceptions.md R179.) -/
def Obligations.IgnoredFormsChangeNothing : Prop :=
  ∀ (s : State) (a len : U7) (v : Byte), s.ctl.halted = false →
    exec .spiEmpty s = .next s ∧ exec (.regWriteBadlen a len) s = .next s ∧ exec (.regRead a len) s = .next s ∧
    exec (.wrOther a v) s = .next s ∧
    (errorRaised (.regWriteBadlen a len) s).map ErrorClass.code = some 2 ∧ ErrorClass.malformed.recoverable = true ∧
    errorRaised .spiEmpty s = none ∧ errorRaised (.regRead a len) s = none ∧ errorRaised (.wrOther a v) s = none

/-- FIFO_READ delivers FIFO_LEN: the data report in AwaitingData, else out-of-sync. For a running consumer FIFO_READ
of N bytes completes in every stage. In AwaitingData it does what T_DATA with N does; in every other stage what
OUT_OF_SYNC does for FIFO_LEN in that stage. It changes nothing but the state machine and the report stream, and
emits exactly one record, with its timestamp. (Derived from 42_spi_decoder.md R112; 44_timing_fsm.md R146;
44_timing_fsm.md R147.) -/
def Obligations.FifoReadSignalsItsLength : Prop :=
  ∀ (s : State) (ts : U32) (n : U7), s.ctl.halted = false →
    ∃ t, exec (.fifoRead ts n) s = .next t ∧ OnlyFsmOut s t ∧ t.fsm.stage = .idle ∧
      (∃ r, t.out = s.out ++ [r] ∧ r.ts = ts) ∧
      (s.fsm.stage = .awaitingData → exec (.tData ts n) s = .next t ∧
        ∃ w m x y, t.out = s.out ++ [⟨.idle, ts, .data n w m x y⟩]) ∧
      (s.fsm.stage ≠ .awaitingData → exec (.outOfSync s.fsm.stage (.fifoLen ts n)) s = .next t ∧
        t.out = s.out ++ [⟨.idle, ts, .outOfSync .fifoLen s.fsm.stage⟩])

/-- Every transaction moves d.last_end to its end offset, whatever its form. When the consumer's step takes an SPI
event, d.last_end becomes the event's end offset, whatever the bytes; when it takes a radio event, d.last_end
stays. (Derived from 10_state.md R24; 42_spi_decoder.md R110.) -/
def Obligations.DecoderPositionMovesToTheEndOffset : Prop :=
  ∀ s t : State, s.aboutToPop → exec .consumerStep s = .next t →
    (s.frontEvent.tag = .spiTransactionEnded → t.lastEnd = s.frontEvent.endOffset) ∧
    (s.frontEvent.tag ≠ .spiTransactionEnded → t.lastEnd = s.lastEnd)

/-- A write of a length other than 2, a read, or no byte at all only moves the position. When the consumer takes a
transaction of length 0, or one whose first byte is from 0x80 up with a length other than 2, or one whose first
byte is in 1..0x7F, and its bytes are stable, the step only pops the event and moves d.last_end: no parameter,
stage, rolling average or record changes. (Derived from 42_spi_decoder.md R111; 42_spi_decoder.md R114;
42_spi_decoder.md R115; 60_exceptions.md R182; 60_exceptions.md R183.) -/
def Obligations.MalformedAndReadTransactionsLeaveNoTrace : Prop :=
  ∀ (s : State) (len : Nat) (b0 : Byte), s.aboutToPop → s.frontEvent.tag = .spiTransactionEnded →
    s.stableSlot s.queue.tail → len = (s.frontEvent.endOffset.toNat + 128 - s.lastEnd.toNat) % 128 →
    b0 = s.capture.byteAt s.lastEnd →
    (len = 0 ∨ (len ≠ 2 ∧ 128 ≤ b0.toNat) ∨ (1 ≤ b0.toNat ∧ b0.toNat < 128)) →
    exec .consumerStep s = .next { s.afterPop s.schedule with lastEnd := s.frontEvent.endOffset }

/-- WR_OPMODE: bit 7 to the flag; MODE 3 and 6 signal TX and RX start. For a running consumer WR_OPMODE completes
for every value and in every stage. It writes the long-range flag from bit 7. With the low three bits 3 it then
does what the row selected for TX_START in the current stage does, with 6 what the row for RX_START does, with
any other value nothing more. (States R123.) -/
def Obligations.OpmodeWriteSetsTheFlagAndSignals : Prop :=
  ∀ (s s' : State) (ts : U32) (v : Byte), s.ctl.halted = false →
    s' = { s with params := { s.params with longRange := decide (128 ≤ v.toNat) } } →
    (v.toNat % 8 = 3 → (s.fsm.stage = .idle → exec (.wrOpmode ts v) s = exec (.tIdleTx ts) s') ∧
      (s.fsm.stage ≠ .idle → exec (.wrOpmode ts v) s = exec (.outOfSync s.fsm.stage (.txStart ts)) s')) ∧
    (v.toNat % 8 = 6 → (s.fsm.stage = .beforeRx1 → exec (.wrOpmode ts v) s = exec (.tBrx1Rx ts) s') ∧
      (s.fsm.stage = .beforeRx2 → exec (.wrOpmode ts v) s = exec (.tBrx2Rx ts) s') ∧
      (s.fsm.stage ≠ .beforeRx1 → s.fsm.stage ≠ .beforeRx2 →
        exec (.wrOpmode ts v) s = exec (.outOfSync s.fsm.stage (.rxStart ts)) s')) ∧
    (v.toNat % 8 ≠ 3 → v.toNat % 8 ≠ 6 → exec (.wrOpmode ts v) s = .next s') ∧
    (∃ t, exec (.wrOpmode ts v) s = .next t ∧ t.params = s'.params ∧ OnlyFsmOut s' t)

/-- WR_MODEMCONFIG1: bandwidth by index, coding rate, implicit header. For a running consumer WR_MODEMCONFIG1
completes. The bandwidth becomes the table entry of V / 16 if that is at most 9, else it stays; the coding rate
becomes V / 2 mod 8 + 4 if that is in 5..8, else it stays; the implicit-header flag is always written from bit
0. Nothing else changes. The write is a silent malformed one exactly where one of the two checks fails. (States
R124.) -/
def Obligations.ModemConfig1WritesItsFieldsIndependently : Prop :=
  ∀ (s : State) (v : Byte), s.ctl.halted = false → ∃ t, exec (.wrModemconfig1 v) s = .next t ∧ OnlyParams s t ∧
    t.params = { s.params with bwIndex := t.params.bwIndex, cr := t.params.cr, ih := t.params.ih } ∧
    (v.toNat / 16 < 10 →
      ([7800, 10400, 15600, 20800, 31250, 41700, 62500, 125000, 250000, 500000] : List Nat)[v.toNat / 16]? =
        some t.params.bw) ∧
    (10 ≤ v.toNat / 16 → t.params.bw = s.params.bw) ∧
    (5 ≤ v.toNat / 2 % 8 + 4 ∧ v.toNat / 2 % 8 + 4 ≤ 8 → t.params.cr.toNat = v.toNat / 2 % 8 + 4) ∧
    (¬ (5 ≤ v.toNat / 2 % 8 + 4 ∧ v.toNat / 2 % 8 + 4 ≤ 8) → t.params.cr = s.params.cr) ∧
    t.params.ih = decide (v.toNat % 2 = 1) ∧
    (errorRaised (.wrModemconfig1 v) s = some .malformed ↔
      ¬ (v.toNat / 16 < 10 ∧ 5 ≤ v.toNat / 2 % 8 + 4 ∧ v.toNat / 2 % 8 + 4 ≤ 8))

/-- WR_MODEMCONFIG2: spreading factor, CRC flag, timeout high bits. For a running consumer WR_MODEMCONFIG2
completes. The spreading factor becomes V / 16 if that is in 6..12, else it stays; the CRC flag is bit 2; the
symbol timeout becomes (V mod 4) * 256 plus its old low byte, so bits 15:10 become 0. Nothing else changes. The
write is a silent malformed one exactly where the spreading factor is rejected. (States R125.) -/
def Obligations.ModemConfig2WritesItsFieldsIndependently : Prop :=
  ∀ (s : State) (v : Byte), s.ctl.halted = false → ∃ t, exec (.wrModemconfig2 v) s = .next t ∧ OnlyParams s t ∧
    t.params = { s.params with sf := t.params.sf, crc := t.params.crc, symbTimeout := t.params.symbTimeout } ∧
    (6 ≤ v.toNat / 16 ∧ v.toNat / 16 ≤ 12 → t.params.sf.toNat = v.toNat / 16) ∧
    (¬ (6 ≤ v.toNat / 16 ∧ v.toNat / 16 ≤ 12) → t.params.sf = s.params.sf) ∧
    t.params.crc = decide (v.toNat / 4 % 2 = 1) ∧
    t.params.symbTimeout.toNat = v.toNat % 4 * 256 + s.params.symbTimeout.toNat % 256 ∧
    (errorRaised (.wrModemconfig2 v) s = some .malformed ↔ ¬ (6 ≤ v.toNat / 16 ∧ v.toNat / 16 ≤ 12))

/-- WR_SYMBTIMEOUTLSB, WR_PREAMBLEMSB and WR_PREAMBLELSB replace one byte. For a running consumer the three handlers
complete for every value: the timeout's low byte, the preamble's high byte or the preamble's low byte becomes V,
the other byte of that parameter and everything else stays. (States R126; R127; R128.) -/
def Obligations.ByteWritesMergeIntoTheirHalf : Prop :=
  ∀ (s : State) (v : Byte), s.ctl.halted = false →
    (∃ t, exec (.wrSymbtimeoutlsb v) s = .next t ∧ OnlyParams s t ∧
      t.params = { s.params with symbTimeout := t.params.symbTimeout } ∧
      t.params.symbTimeout.toNat = s.params.symbTimeout.toNat / 256 * 256 + v.toNat) ∧
    (∃ t, exec (.wrPreamblemsb v) s = .next t ∧ OnlyParams s t ∧
      t.params = { s.params with preamble := t.params.preamble } ∧
      t.params.preamble.toNat = v.toNat * 256 + s.params.preamble.toNat % 256) ∧
    (∃ t, exec (.wrPreamblelsb v) s = .next t ∧ OnlyParams s t ∧
      t.params = { s.params with preamble := t.params.preamble } ∧
      t.params.preamble.toNat = s.params.preamble.toNat / 256 * 256 + v.toNat)

/-- WR_PAYLOADLENGTH writes the payload length, WR_MODEMCONFIG3 the LDRO bit. For a running consumer both handlers
complete for every value: the payload length becomes V, or the low-data-rate flag becomes bit 3 of V; nothing
else changes. (States R129; R130.) -/
def Obligations.PayloadLengthAndLdroWrites : Prop :=
  ∀ (s : State) (v : Byte), s.ctl.halted = false →
    (∃ t, exec (.wrPayloadlength v) s = .next t ∧ OnlyParams s t ∧ t.params = { s.params with payloadLen := v }) ∧
    (∃ t, exec (.wrModemconfig3 v) s = .next t ∧ OnlyParams s t ∧
      t.params = { s.params with ldro := decide (v.toNat / 8 % 2 = 1) })

/-- T_IDLE_TX: record the start, go to Transmitting, report TX_BEGIN. In Idle, for a running consumer, T_IDLE_TX
completes: tx_start becomes the timestamp, the stage Transmitting, one TX_BEGIN record is appended; the result
and all else stay. (States R138.) -/
def Obligations.TxStartInIdleBeginsTransmitting : Prop :=
  ∀ (s : State) (ts : U32), s.ctl.halted = false → s.fsm.stage = .idle → ∃ t, exec (.tIdleTx ts) s = .next t ∧
    t.fsm = { s.fsm with txStart := ts, stage := .transmitting } ∧
    t.out = s.out ++ [⟨.transmitting, ts, .txBegin⟩] ∧ OnlyFsmOut s t

/-- T_TX_DONE: measured and expected air time of the transmission. In Transmitting, for a running consumer,
T_TX_DONE completes: tx_end becomes the timestamp, the stage BeforeRx1, and one TX_END record carries the
elapsed time modulo 2^32, the air time of the payload length, and their difference; all else stays. (States
R139.) -/
def Obligations.RadioDoneInTransmittingReportsAirTime : Prop :=
  ∀ (s : State) (ts m : U32), s.ctl.halted = false → s.fsm.stage = .transmitting →
    m.toNat = (ts.toNat + 2 ^ 32 - s.fsm.txStart.toNat) % 2 ^ 32 → ∃ t, exec (.tTxDone ts) s = .next t ∧
    t.fsm = { s.fsm with txEnd := ts, stage := .beforeRx1 } ∧
    t.out = s.out ++ [⟨.beforeRx1, ts, .txEnd m (airTime s.params s.params.payloadLen.toNat)
      ((m.toNat : Int) - airTime s.params s.params.payloadLen.toNat)⟩] ∧ OnlyFsmOut s t

/-- T_BRX1_RX: record the window start, report it relative to tx_end. In BeforeRx1, for a running consumer,
T_BRX1_RX completes: rx1_start becomes the timestamp, the stage InRx1, and one RX1_OPEN record carries the time
since tx_end modulo 2^32; all else stays. (States R140.) -/
def Obligations.RxStartBeforeRx1OpensWindow1 : Prop :=
  ∀ (s : State) (ts m : U32), s.ctl.halted = false → s.fsm.stage = .beforeRx1 →
    m.toNat = (ts.toNat + 2 ^ 32 - s.fsm.txEnd.toNat) % 2 ^ 32 → ∃ t, exec (.tBrx1Rx ts) s = .next t ∧
    t.fsm = { s.fsm with rx1Start := ts, stage := .inRx1 } ∧
    t.out = s.out ++ [⟨.inRx1, ts, .rx1Open m⟩] ∧ OnlyFsmOut s t

/-- T_RX1_DONE: result DownlinkInRx1, await the data. In InRx1, for a running consumer, T_RX1_DONE completes:
rx1_end becomes the timestamp, the result DownlinkInRx1, the stage AwaitingData, and one RX1_DOWNLINK record
carries the time since rx1_start modulo 2^32; the rolling averages and all else stay. (States R141.) -/
def Obligations.RadioDoneInRx1RecordsADownlink : Prop :=
  ∀ (s : State) (ts m : U32), s.ctl.halted = false → s.fsm.stage = .inRx1 →
    m.toNat = (ts.toNat + 2 ^ 32 - s.fsm.rx1Start.toNat) % 2 ^ 32 → ∃ t, exec (.tRx1Done ts) s = .next t ∧
    t.fsm = { s.fsm with rx1End := ts, result := .downlinkInRx1, stage := .awaitingData } ∧
    t.out = s.out ++ [⟨.awaitingData, ts, .rx1Downlink m⟩] ∧ OnlyFsmOut s t

/-- T_RX1_TMO: the window correction goes into RX1's rolling average. In InRx1, for a running consumer, T_RX1_TMO
completes: rx1_end becomes the timestamp, the stage BeforeRx2, the correction for RX1_DELAY_US is pushed into
ra[1], and one RX1_TIMEOUT record carries the window length, the optimal end, the correction and ra[1]'s mean,
variance and count after the push; ra[2], the result and all else stay. (States R142.) -/
def Obligations.TimeoutInRx1PushesACorrection : Prop :=
  ∀ (s : State) (ts : U32) (c : S32) (r : Rolling), s.ctl.halted = false → s.fsm.stage = .inRx1 →
    c = correction s.params s.fsm.txEnd s.cfg.rx1DelayUs ts → r = s.ra1.push c → ∃ t, exec (.tRx1Tmo ts) s = .next t ∧
    t.fsm = { s.fsm with rx1End := ts, stage := .beforeRx2 } ∧ t.ra1 = r ∧ t.ra2 = s.ra2 ∧
    t.out = s.out ++ [⟨.beforeRx2, ts, .rx1Timeout ⟨windowLen s.params,
      optimalEnd s.params s.fsm.txEnd s.cfg.rx1DelayUs, c, r.mean, r.variance, r.count.val⟩⟩] ∧ OnlyFsmRaOut s t

/-- T_BRX2_RX: record the window start, report it relative to tx_end. In BeforeRx2, for a running consumer,
T_BRX2_RX completes: rx2_start becomes the timestamp, the stage InRx2, and one RX2_OPEN record carries the time
since tx_end modulo 2^32; all else stays. (States R143.) -/
def Obligations.RxStartBeforeRx2OpensWindow2 : Prop :=
  ∀ (s : State) (ts m : U32), s.ctl.halted = false → s.fsm.stage = .beforeRx2 →
    m.toNat = (ts.toNat + 2 ^ 32 - s.fsm.txEnd.toNat) % 2 ^ 32 → ∃ t, exec (.tBrx2Rx ts) s = .next t ∧
    t.fsm = { s.fsm with rx2Start := ts, stage := .inRx2 } ∧
    t.out = s.out ++ [⟨.inRx2, ts, .rx2Open m⟩] ∧ OnlyFsmOut s t

/-- T_RX2_DONE: result DownlinkInRx2, await the data. In InRx2, for a running consumer, T_RX2_DONE completes:
rx2_end becomes the timestamp, the result DownlinkInRx2, the stage AwaitingData, and one RX2_DOWNLINK record
carries the time since rx2_start modulo 2^32; the rolling averages and all else stay. (States R144.) -/
def Obligations.RadioDoneInRx2RecordsADownlink : Prop :=
  ∀ (s : State) (ts m : U32), s.ctl.halted = false → s.fsm.stage = .inRx2 →
    m.toNat = (ts.toNat + 2 ^ 32 - s.fsm.rx2Start.toNat) % 2 ^ 32 → ∃ t, exec (.tRx2Done ts) s = .next t ∧
    t.fsm = { s.fsm with rx2End := ts, result := .downlinkInRx2, stage := .awaitingData } ∧
    t.out = s.out ++ [⟨.awaitingData, ts, .rx2Downlink m⟩] ∧ OnlyFsmOut s t

/-- T_RX2_TMO: no downlink; the correction goes into RX2's rolling average. In InRx2, for a running consumer,
T_RX2_TMO completes: rx2_end becomes the timestamp, the result NoDownlink, the stage Idle, the correction for
RX2_DELAY_US is pushed into ra[2], and one RX2_TIMEOUT record carries the window length, the optimal end, the
correction and ra[2]'s mean, variance and count after the push; ra[1] and all else stay. (States R145.) -/
def Obligations.TimeoutInRx2EndsTheUplink : Prop :=
  ∀ (s : State) (ts : U32) (c : S32) (r : Rolling), s.ctl.halted = false → s.fsm.stage = .inRx2 →
    c = correction s.params s.fsm.txEnd s.cfg.rx2DelayUs ts → r = s.ra2.push c → ∃ t, exec (.tRx2Tmo ts) s = .next t ∧
    t.fsm = { s.fsm with rx2End := ts, result := .noDownlink, stage := .idle } ∧ t.ra2 = r ∧ t.ra1 = s.ra1 ∧
    t.out = s.out ++ [⟨.idle, ts, .rx2Timeout ⟨windowLen s.params,
      optimalEnd s.params s.fsm.txEnd s.cfg.rx2DelayUs, c, r.mean, r.variance, r.count.val⟩⟩] ∧ OnlyFsmRaOut s t

/-- T_DATA: measured and expected air time of the downlink. In AwaitingData, for a running consumer, T_DATA
completes: the stage becomes Idle and one DATA record carries N, the window (1 if the result is DownlinkInRx1,
else 2), that window's measured duration modulo 2^32, the air time of N bytes and their difference; the result
and all else stay. (States R146.) -/
def Obligations.FifoLengthInAwaitingDataReportsTheDownlink : Prop :=
  ∀ (s : State) (ts m : U32) (n : U7) (w : Window), s.ctl.halted = false → s.fsm.stage = .awaitingData →
    (s.fsm.result = .downlinkInRx1 ∧ w = .rx1 ∧
        m.toNat = (s.fsm.rx1End.toNat + 2 ^ 32 - s.fsm.rx1Start.toNat) % 2 ^ 32 ∨
      s.fsm.result ≠ .downlinkInRx1 ∧ w = .rx2 ∧
        m.toNat = (s.fsm.rx2End.toNat + 2 ^ 32 - s.fsm.rx2Start.toNat) % 2 ^ 32) →
    ∃ t, exec (.tData ts n) s = .next t ∧ t.fsm = { s.fsm with stage := .idle } ∧
      t.out = s.out ++ [⟨.idle, ts, .data n w m (airTime s.params n.toNat)
        ((m.toNat : Int) - airTime s.params n.toNat)⟩] ∧ OnlyFsmOut s t

/-- OUT_OF_SYNC: one record naming input and stage; Idle and NoDownlink. For a running consumer, an input that the
transition table does not list for the current stage completes as OUT_OF_SYNC: one record names the input and
the stage it arrived in, the stage becomes Idle and the result NoDownlink; the timestamps, the parameters, the
rolling averages and all else stay. The error raised is of class OUT_OF_SYNC with code 1 (R179), recoverable,
and the record carries that class. (States R147.) -/
def Obligations.OutOfSyncReportsAndReturnsToIdle : Prop :=
  ∀ (s : State) (x : Input), s.ctl.halted = false → hasTransition s.fsm.stage x.kind = false →
    ∃ t, exec (.outOfSync s.fsm.stage x) s = .next t ∧
      t.fsm = { s.fsm with stage := .idle, result := .noDownlink } ∧
      t.out = s.out ++ [⟨.idle, x.ts, .outOfSync x.kind s.fsm.stage⟩] ∧ OnlyFsmOut s t ∧
      errorRaised (.outOfSync s.fsm.stage x) s = some .outOfSync ∧ ErrorClass.outOfSync.recoverable = true ∧
      (⟨.idle, x.ts, .outOfSync x.kind s.fsm.stage⟩ : Report).errorCode = some 1

/-- A transition row run in a stage its key does not name is refused by name. The model's choice (log 11): R137
selects a row only in its own stage, so executing a row by itself in another stage is no move of the block. For
a running consumer it is refused as notSelected; so is OUT_OF_SYNC for a pair the table lists, or for a stage
that is not the current one. No step reaches these refusals. (Derived from 44_timing_fsm.md R137;
60_exceptions.md R192.) -/
def Obligations.TransitionRowsRunOnlyInTheirStage : Prop :=
  ∀ (s : State) (i : Instr) (st : Stage) (x : Input), s.ctl.halted = false →
    (rowStage i = some st → s.fsm.stage ≠ st → exec i s = .refused .notSelected) ∧
    (hasTransition st x.kind = true ∨ s.fsm.stage ≠ st → exec (.outOfSync st x) s = .refused .notSelected) ∧
    step s ≠ .refused .notSelected

/-- A step changes the stage along the transition table's edges or to Idle. If a step other than a reset answers a
next state whose stage differs, the pair of stages is one of the edges of the transition table, or the new stage
is Idle and the last record is an OUT_OF_SYNC naming the old stage. (Derived from 44_timing_fsm.md R137;
44_timing_fsm.md R148; 44_timing_fsm.md R154; 44_timing_fsm.md R155.) -/
def Obligations.StageChangesFollowTheTable : Prop :=
  ∀ s t : State, step s = .next t → ¬ s.resetNext → t.fsm.stage ≠ s.fsm.stage →
    (s.fsm.stage, t.fsm.stage) ∈ ([(.idle, .transmitting), (.transmitting, .beforeRx1), (.beforeRx1, .inRx1),
      (.inRx1, .awaitingData), (.inRx1, .beforeRx2), (.beforeRx2, .inRx2), (.inRx2, .awaitingData), (.inRx2, .idle),
      (.awaitingData, .idle)] : List (Stage × Stage)) ∨
    (t.fsm.stage = .idle ∧ ∃ ts k, t.out = s.out ++ [⟨.idle, ts, .outOfSync k s.fsm.stage⟩])

/-- No step emits more than one record; without a record the state machine is unchanged. A step other than a reset
either leaves the report stream, the state machine and both rolling averages as they were, or appends exactly
one record, whose stage is the stage after the step and whose timestamp is that of the event the consumer took.
(Derived from 44_timing_fsm.md R150; 44_timing_fsm.md R152; 44_timing_fsm.md R153; 42_spi_decoder.md R119.) -/
def Obligations.OneRecordPerInputWithItsTimestamp : Prop :=
  ∀ s t : State, step s = .next t → ¬ s.resetNext →
    (t.out = s.out ∧ t.fsm = s.fsm ∧ t.ra1 = s.ra1 ∧ t.ra2 = s.ra2) ∨
    (∃ r, t.out = s.out ++ [r] ∧ r.stage = t.fsm.stage ∧ r.ts = s.frontEvent.ts)

/-- Only the downlink, RX2-timeout and out-of-sync rules write the result. A step other than a reset that emits no
record leaves the result. One that emits a record leaves the result DownlinkInRx1 after RX1_DOWNLINK,
DownlinkInRx2 after RX2_DOWNLINK, NoDownlink after RX2_TIMEOUT and OUT_OF_SYNC, and unchanged after every other
kind. (States R149.) -/
def Obligations.ResultHasFourWriters : Prop :=
  ∀ s t : State, step s = .next t → ¬ s.resetNext →
    (t.out = s.out → t.fsm.result = s.fsm.result) ∧
    (∀ r, t.out = s.out ++ [r] →
      match r.body with
      | .rx1Downlink _ => t.fsm.result = .downlinkInRx1
      | .rx2Downlink _ => t.fsm.result = .downlinkInRx2
      | .rx2Timeout _ => t.fsm.result = .noDownlink
      | .outOfSync _ _ => t.fsm.result = .noDownlink
      | .txBegin => t.fsm.result = s.fsm.result
      | .txEnd _ _ _ => t.fsm.result = s.fsm.result
      | .rx1Open _ => t.fsm.result = s.fsm.result
      | .rx1Timeout _ => t.fsm.result = s.fsm.result
      | .rx2Open _ => t.fsm.result = s.fsm.result
      | .data _ _ _ _ _ => t.fsm.result = s.fsm.result)

/-- The state after reset meets the invariant. The invariant of the block (parameter ranges, end offsets, ring
alignment, the result named in AwaitingData, halt only on overflow, an empty latch, the canonical capture
memory) holds at State.reset. The slots and the latch stand at values of the model's choice (logs 6 and 8), and
the canonical list of the capture memory is the model's own form. (Derived from 10_state.md R45;
70_reset_and_hazards.md R201.) -/
def Obligations.ResetStateMeetsTheInvariant : Prop :=
  State.reset.Inv

/-- From every state that meets the invariant, a step leads to one that meets it. Parameters stay in the ranges the
arithmetic needs, only SPI events carry an end offset, a ring that is not full writes after its samples,
AwaitingData always knows its window, a halted consumer has overflowed, POP's result does not outlive its step,
and the capture memory keeps its canonical form: whatever the agents do, in every order. The empty latch (log 8)
and the canonical list of the capture bytes are the model's own clauses: of the spec, R50 gives only that the
offsets are 0..127. (Derived from 10_state.md R26; 10_state.md R27; 10_state.md R28; 10_state.md R35;
30_encoding.md R85; 44_timing_fsm.md R146; 46_rolling_average.md R174; 60_exceptions.md R185; 20_memory.md R50.) -/
def Obligations.EveryStepKeepsTheInvariant : Prop :=
  ∀ s t : State, s.Inv → step s = .next t → t.Inv

/-- Reset from any state gives the reset values of the block. Whatever the state, a reset completes: the queue is
empty with head, tail and overflow 0, d.last_end is 0, the parameters hold their defaults, the stage is Idle,
the result NoDownlink and all timestamps 0, both rolling averages are empty, halted is 0 and the report stream
is empty. That the run's delays and the coming moves stay is the model's choice (log 18). (Derived from
70_reset_and_hazards.md R201; 10_state.md R45.) -/
def Obligations.ResetPutsEveryElementToItsResetValue : Prop :=
  ∀ (s : State) (rest : List Move), s.schedule = .reset :: rest → ∃ t, step s = .next t ∧
    t.queue.head = 0 ∧ t.queue.tail = 0 ∧ t.queue.overflow = false ∧ t.lastEnd = 0 ∧
    t.params.bw = 125000 ∧ t.params.cr = 5 ∧ t.params.sf = 7 ∧ t.params.preamble = 8 ∧ t.params.payloadLen = 1 ∧
    t.params.symbTimeout = 0x64 ∧ t.params.ih = false ∧ t.params.crc = false ∧ t.params.ldro = false ∧
    t.params.longRange = false ∧ t.fsm.stage = .idle ∧ t.fsm.result = .noDownlink ∧
    t.fsm.txStart = 0 ∧ t.fsm.txEnd = 0 ∧ t.fsm.rx1Start = 0 ∧ t.fsm.rx1End = 0 ∧ t.fsm.rx2Start = 0 ∧
    t.fsm.rx2End = 0 ∧ t.ra1.next = 0 ∧ t.ra1.count = 0 ∧ t.ra2.next = 0 ∧ t.ra2.count = 0 ∧
    t.ctl.halted = false ∧ t.out = [] ∧ t.cfg = s.cfg ∧ t.schedule = rest

/-- Every intermediate value of the timing arithmetic stays in its range. For every parameter set in range and every
payload length up to 255: symbol_duration is in 128..525128, preamble_duration at most 34416495274,
payload_symbols at most 1040, window_len at most 537205944 and air_time below 2^36; none is negative, so each
fits in s64. (States R167.) -/
def Obligations.TimingArithmeticRanges : Prop :=
  ∀ (p : Params) (pl : Nat), p.inRange → pl ≤ 255 →
    128 ≤ symbolDuration p ∧ symbolDuration p ≤ 525128 ∧
    0 ≤ preambleDuration p ∧ preambleDuration p ≤ 34416495274 ∧
    0 ≤ payloadSymbols p pl ∧ payloadSymbols p pl ≤ 1040 ∧
    0 ≤ windowLen p ∧ windowLen p ≤ 537205944 ∧ 0 ≤ airTime p pl ∧ airTime p pl < 2 ^ 36

/-- payload_symbols is the least whole number of blocks that covers the payload, times the rate, plus 8. For every
parameter set in range and payload length: payload_symbols is n * cr + 8, where n is 0 if a = 8 PL - 4 SF + 44 -
20 IH is not positive, and otherwise the least n with n * 4 (SF - 2 LDRO) at least a. The CRC flag has no part
in it. (Derived from 45_timing_arithmetic.md R160; 45_timing_arithmetic.md R168.) -/
def Obligations.PayloadSymbolsAreACeiling : Prop :=
  ∀ (p : Params) (pl : Nat) (a d : Int), p.inRange →
    a = 8 * (pl : Int) - 4 * (p.sf.toNat : Int) + 44 - (if p.ih then 20 else 0) →
    d = 4 * ((p.sf.toNat : Int) - (if p.ldro then 2 else 0)) →
    ∃ n : Int, payloadSymbols p pl = n * (p.cr.toNat : Int) + 8 ∧
      (a ≤ 0 → n = 0) ∧ (0 < a → a ≤ n * d ∧ (n - 1) * d < a)

/-- The correction is exact where the true difference fits in 32 signed bits. If the end of the window is the
optimal end plus d modulo 2^32, with d in -2^31..2^31-1, the correction read as a signed number is d. (Derived
from 45_timing_arithmetic.md R165; 70_reset_and_hazards.md R209.) -/
def Obligations.CorrectionIsTheSignedDifference : Prop :=
  ∀ (p : Params) (txEnd delay tEnd : U32) (d : Int), -2 ^ 31 ≤ d → d < 2 ^ 31 →
    (tEnd.toNat : Int) = (((optimalEnd p txEnd delay).toNat : Int) + d) % 2 ^ 32 →
    (correction p txEnd delay tEnd).toInt = d

/-- expected_start and optimal_end modulo 2^32. For every parameter set in range, expected_start is tx_end plus the
delay modulo 2^32, and optimal_end is that plus half of preamble_duration + window_len, truncated, modulo 2^32.
(States R163; R164.) -/
def Obligations.OptimalEndIsCentred : Prop :=
  ∀ (p : Params) (txEnd delay : U32) (h : Nat), p.inRange →
    (h : Int) = (preambleDuration p + windowLen p) / 2 →
    (expectedStart txEnd delay).toNat = (txEnd.toNat + delay.toNat) % 2 ^ 32 ∧
    (optimalEnd p txEnd delay).toNat = (txEnd.toNat + delay.toNat + h) % 2 ^ 32

/-- The CRC and long-range flags influence nothing but themselves. Two states that differ only in p.crc and
p.long_range step to states that differ only in these two, or both fault or are refused with the same reason: no
other register, record or byte ever depends on them. (Derived from 45_timing_arithmetic.md R168; 10_state.md
R30; 10_state.md R34.) -/
def Obligations.CrcAndLongRangeFlagsInfluenceNothing : Prop :=
  ∀ s : State, mapNext State.eraseUnread (step s) = mapNext State.eraseUnread (step s.eraseUnread)

/-- A rolling average holds exactly the last twenty samples pushed. After any sequence of pushes on a rolling
average with next = 0 and count = 0, whatever its slots hold, count is the number of pushes capped at 20; below
20 pushes the held samples are those pushed, in order; from 20 on they are the last 20 pushed, in some order.
(Derived from 46_rolling_average.md R174; 46_rolling_average.md R171.) -/
def Obligations.HeldSamplesAreTheLastTwenty : Prop :=
  ∀ (xs : List S32) (r0 r : Rolling), r0.next = 0 → r0.count = 0 → r = xs.foldl Rolling.push r0 →
    r.count.val = min xs.length 20 ∧ (xs.length < 20 → r.held = xs.map BitVec.toInt) ∧
    r.held.Perm ((xs.drop (xs.length - 20)).map BitVec.toInt)

/-- Mean and variance depend only on the multiset of held samples. Two rolling averages whose held samples are
permutations of each other have the same mean and the same variance, whatever their write index and ring order.
(States R175.) -/
def Obligations.MeanAndVarianceIgnoreTheOrder : Prop :=
  ∀ r r' : Rolling, r.held.Perm r'.held → r.mean = r'.mean ∧ r.variance = r'.variance

/-- Mean and variance are quotients by count, truncated toward zero. With no sample held both are 0. Otherwise the
sum of the samples is mean * count plus a remainder smaller than count in size and of the sum's sign, and the
sum of squared deviations from that mean is variance * count plus a remainder in 0..count-1. (Derived from
46_rolling_average.md R172; 46_rolling_average.md R173.) -/
def Obligations.MeanAndVarianceTruncate : Prop :=
  ∀ (r : Rolling) (n q : Int), n = (r.count.val : Int) → q = (r.held.map fun x => (x - r.mean) ^ 2).sum →
    (n = 0 → r.mean = 0 ∧ r.variance = 0) ∧
    (0 < n → (∃ k, r.held.sum = r.mean * n + k ∧ |k| < n ∧ (0 ≤ r.held.sum → 0 ≤ k) ∧ (r.held.sum ≤ 0 → k ≤ 0)) ∧
      r.variance * n ≤ q ∧ q < r.variance * n + n)

/-- A DMA write sets one byte; no other step but reset changes any. A DMA write completes: the byte at its offset
reads as written and every other offset reads as before, and the block's own registers stay. Every other step
that is not a reset leaves every byte of the capture buffer as it was. (Derived from 20_memory.md R53;
20_memory.md R52.) -/
def Obligations.CaptureBytesAreWrittenByTheDmaAlone : Prop :=
  ∀ (s : State), (∀ o v rest, s.schedule = .dmaWrite o v :: rest → ∃ t, step s = .next t ∧
      t.capture.byteAt o = v ∧ (∀ a, a ≠ o → t.capture.byteAt a = s.capture.byteAt a) ∧
      t.queue = s.queue ∧ t.lastEnd = s.lastEnd ∧ t.params = s.params ∧ t.fsm = s.fsm ∧ t.ra1 = s.ra1 ∧
      t.ra2 = s.ra2 ∧ t.ctl = s.ctl ∧ t.out = s.out ∧ t.cfg = s.cfg ∧ t.schedule = rest) ∧
    (∀ t, step s = .next t → ¬ s.resetNext → (∀ o v rest, s.schedule ≠ .dmaWrite o v :: rest) → SameMemory s t)

/-- symbol_duration, preamble_duration, window_len and air_time in numbers. For every parameter set in range and
every payload length there are a number sd, the whole part of 2^SF * 1000000 / BW, and a number q, the whole
part of sd / 4, such that symbol_duration is sd, preamble_duration is (preamble + 4) * sd + q, window_len is sd
times the symbol timeout, and air_time is preamble_duration plus payload_symbols times sd.
PayloadSymbolsAreACeiling gives payload_symbols in numbers. (States R158; R159; R161; R162.) -/
def Obligations.TimingDurationsInNumbers : Prop :=
  ∀ (p : Params) (pl : Nat), p.inRange → ∃ sd q : Int,
    0 ≤ sd ∧ sd * (p.bw : Int) ≤ 2 ^ p.sf.toNat * 1000000 ∧ 2 ^ p.sf.toNat * 1000000 < (sd + 1) * (p.bw : Int) ∧
    4 * q ≤ sd ∧ sd < 4 * q + 4 ∧ symbolDuration p = sd ∧
    preambleDuration p = ((p.preamble.toNat : Int) + 4) * sd + q ∧
    windowLen p = sd * (p.symbTimeout.toNat : Int) ∧
    airTime p pl = ((p.preamble.toNat : Int) + 4) * sd + q + payloadSymbols p pl * sd
end

