-- ==== Sys2Proof/Laws/Decode.lean ====
section
/-!
SUPPORT. The bytes of a transaction the decoder sees (30_encoding.md R89).
-/

namespace Sys2Proof

/-- The decoder sees as many bytes as the length modulo 128. -/
@[simp] theorem seenBytes_length (bytes : List Byte) : (seenBytes bytes).length = bytes.length % 128 := by
  simp only [seenBytes, List.length_drop]
  omega

/-- A transaction below 128 bytes is seen whole. -/
theorem seenBytes_short {bytes : List Byte} (h : bytes.length < 128) : seenBytes bytes = bytes := by
  simp [seenBytes, Nat.div_eq_of_lt h]

/-- A transaction below 128 bytes is decoded by its own length. -/
theorem decodeBytes_short {bytes : List Byte} (h : bytes.length < 128) (ts : U32) :
    decodeBytes ts bytes = decodeTxn ts (BitVec.ofNat 7 bytes.length) (bytes.getD 0 0) (bytes.getD 1 0) := by
  rw [decodeBytes, seenBytes_short h]

end Sys2Proof
end

