-- ==== Sys2Proof/Laws/Operands.lean ====
section
/-!
SUPPORT. The operand functions as numbers: the fields of a register value V, the accepted values and the merges.
-/

namespace Sys2Proof.Machine

/-! ## Fields of V -/

theorem opmodeLongRange_eq (v : Byte) : opmodeLongRange v = decide (128 ≤ v.toNat) := by revert v; decide

theorem opmodeMode_toNat (v : Byte) : (opmodeMode v).toNat = v.toNat % 8 := by simp [opmodeMode]

theorem mc1BwIndex_toNat (v : Byte) : (mc1BwIndex v).toNat = v.toNat / 16 := by
  have := v.isLt
  simp [mc1BwIndex, Nat.shiftRight_eq_div_pow]
  omega

theorem mc1CodingRate_toNat (v : Byte) : (mc1CodingRate v).toNat = v.toNat / 2 % 8 := by
  simp [mc1CodingRate, Nat.shiftRight_eq_div_pow]

theorem mc1ImplicitHeader_eq (v : Byte) : mc1ImplicitHeader v = decide (v.toNat % 2 = 1) := by revert v; decide

theorem mc2SpreadingFactor_toNat (v : Byte) : (mc2SpreadingFactor v).toNat = v.toNat / 16 := by
  have := v.isLt
  simp [mc2SpreadingFactor, Nat.shiftRight_eq_div_pow]
  omega

theorem mc2Crc_eq (v : Byte) : mc2Crc v = decide (v.toNat / 4 % 2 = 1) := by revert v; decide

theorem mc2TimeoutHigh_toNat (v : Byte) : (mc2TimeoutHigh v).toNat = v.toNat % 4 := by simp [mc2TimeoutHigh]

theorem mc3Ldro_eq (v : Byte) : mc3Ldro v = decide (v.toNat / 8 % 2 = 1) := by revert v; decide

/-! ## Accepted values -/

/-- The coding-rate field's two cases. -/
theorem acceptCodingRate_cases (f : BitVec 3) :
    (5 ≤ f.toNat + 4 ∧ f.toNat + 4 ≤ 8 ∧ ∃ r, acceptCodingRate f = some r ∧ r.toNat = f.toNat + 4) ∨
      (¬ (5 ≤ f.toNat + 4 ∧ f.toNat + 4 ≤ 8) ∧ acceptCodingRate f = none) := by
  revert f
  decide

/-- The spreading-factor field's two cases. -/
theorem acceptSpreadingFactor_cases (f : BitVec 4) :
    (6 ≤ f.toNat ∧ f.toNat ≤ 12 ∧ acceptSpreadingFactor f = some f) ∨
      (¬ (6 ≤ f.toNat ∧ f.toNat ≤ 12) ∧ acceptSpreadingFactor f = none) := by
  revert f
  decide

/-! ## Merges -/

/-- A high part over the old low byte, as numbers. -/
theorem mergeHigh_toNat (hi old : U16) :
    (mergeHigh hi old).toNat = hi.toNat * 256 % 65536 + old.toNat % 256 := by
  have hm := Nat.and_two_pow_sub_one_eq_mod old.toNat 8
  simp only [Nat.reducePow, Nat.reduceSub] at hm
  have hl := hi.isLt
  rw [mergeHigh, BitVec.toNat_or, BitVec.toNat_shiftLeft, BitVec.toNat_and, show (0x00FF : U16).toNat = 255 from rfl, hm,
    Nat.shiftLeft_eq]
  rw [show hi.toNat * 2 ^ 8 % 2 ^ 16 = 2 ^ 8 * (hi.toNat % 256) by omega, ← Nat.two_pow_add_eq_or_of_lt (by omega)]
  omega

/-- A low byte under the old high part, as numbers. -/
theorem mergeLow_toNat (old : U16) (lo : Byte) :
    (mergeLow old lo).toNat = old.toNat / 256 * 256 + lo.toNat := by
  have h : old.toNat &&& 0xFF00 = 2 ^ 8 * (old.toNat / 256) := by
    have hl := old.isLt
    have h1 : old.toNat &&& 0xFF00 = (old.toNat >>> 8 &&& 0xFF) <<< 8 := by
      rw [Nat.shiftLeft_and_distrib]
      apply Nat.eq_of_testBit_eq
      intro i
      simp only [Nat.testBit_and, Nat.testBit_shiftLeft, Nat.testBit_shiftRight, show (0xFF00 : Nat) = 0xFF <<< 8 from rfl]
      by_cases h8 : 8 ≤ i <;> simp [h8]
    have h2 := Nat.and_two_pow_sub_one_eq_mod (old.toNat >>> 8) 8
    simp only [Nat.reducePow, Nat.reduceSub] at h2
    rw [h1, h2, Nat.shiftLeft_eq, Nat.shiftRight_eq_div_pow]
    omega
  have hz : (zext16 lo).toNat = lo.toNat := by
    have := lo.isLt
    simp only [zext16, BitVec.toNat_setWidth]
    omega
  rw [mergeLow, BitVec.toNat_or, BitVec.toNat_and, show (0xFF00 : U16).toNat = 0xFF00 from rfl, h, hz,
    ← Nat.two_pow_add_eq_or_of_lt lo.isLt]
  omega
end Sys2Proof.Machine
end

