-- ==== Sys2Proof/Laws/Errors.lean ====
section
/-!
SUPPORT. The malformed register values as numbers (60_exceptions.md R182).
-/

namespace Sys2Proof.Machine

/-- A bandwidth index is rejected from 10 up. -/
theorem acceptBwIndex_isNone (v : Byte) : (acceptBwIndex (mc1BwIndex v)).isNone = true ↔ 10 ≤ v.toNat / 16 := by
  have h := mc1BwIndex_toNat v
  simp only [acceptBwIndex, h]
  split <;> simp <;> omega

/-- A ModemConfig1 value is malformed where its index or its coding rate is out of range. -/
theorem mc1Malformed_iff (v : Byte) :
    mc1Malformed v = true ↔ 10 ≤ v.toNat / 16 ∨ ¬ (5 ≤ v.toNat / 2 % 8 + 4 ∧ v.toNat / 2 % 8 + 4 ≤ 8) := by
  have h := mc1CodingRate_toNat v
  rw [mc1Malformed, Bool.or_eq_true, acceptBwIndex_isNone]
  rcases acceptCodingRate_cases (mc1CodingRate v) with ⟨h5, h8, r, hr, _⟩ | ⟨hn, hr⟩ <;> rw [hr]
  · rw [h] at h5 h8
    simp only [Option.isNone_some, Bool.false_eq_true, or_false]
    omega
  · rw [h] at hn
    simp only [Option.isNone_none, or_true, true_iff]
    exact .inr hn

/-- A ModemConfig2 value is malformed where its spreading factor is out of range. -/
theorem mc2Malformed_iff (v : Byte) : mc2Malformed v = true ↔ ¬ (6 ≤ v.toNat / 16 ∧ v.toNat / 16 ≤ 12) := by
  have h := mc2SpreadingFactor_toNat v
  rcases acceptSpreadingFactor_cases (mc2SpreadingFactor v) with ⟨h6, h12, hr⟩ | ⟨hn, hr⟩ <;> rw [mc2Malformed, hr]
  · rw [h] at h6 h12
    simp only [Option.isNone_some, Bool.false_eq_true, false_iff, not_not]
    exact ⟨h6, h12⟩
  · rw [h] at hn
    simp [hn]

end Sys2Proof.Machine
end

