-- ==== Sys2Proof/Laws/State.lean ====
section
/-!
SUPPORT. One lemma per field per update of the state, each true by definition, so that no proof unfolds a record
update.
-/

namespace Sys2Proof.Machine

section
variable (s : State)

/-! ## withQueue -/

@[simp] theorem State.withQueue_queue (q : Queue) : (s.withQueue q).queue = q := rfl
@[simp] theorem State.withQueue_lastEnd (q : Queue) : (s.withQueue q).lastEnd = s.lastEnd := rfl
@[simp] theorem State.withQueue_params (q : Queue) : (s.withQueue q).params = s.params := rfl
@[simp] theorem State.withQueue_fsm (q : Queue) : (s.withQueue q).fsm = s.fsm := rfl
@[simp] theorem State.withQueue_ra1 (q : Queue) : (s.withQueue q).ra1 = s.ra1 := rfl
@[simp] theorem State.withQueue_ra2 (q : Queue) : (s.withQueue q).ra2 = s.ra2 := rfl
@[simp] theorem State.withQueue_ctl (q : Queue) : (s.withQueue q).ctl = s.ctl := rfl
@[simp] theorem State.withQueue_out (q : Queue) : (s.withQueue q).out = s.out := rfl
@[simp] theorem State.withQueue_capture (q : Queue) : (s.withQueue q).capture = s.capture := rfl
@[simp] theorem State.withQueue_cfg (q : Queue) : (s.withQueue q).cfg = s.cfg := rfl
@[simp] theorem State.withQueue_schedule (q : Queue) : (s.withQueue q).schedule = s.schedule := rfl

/-! ## withLastEnd -/

@[simp] theorem State.withLastEnd_queue (e : U7) : (s.withLastEnd e).queue = s.queue := rfl
@[simp] theorem State.withLastEnd_lastEnd (e : U7) : (s.withLastEnd e).lastEnd = e := rfl
@[simp] theorem State.withLastEnd_params (e : U7) : (s.withLastEnd e).params = s.params := rfl
@[simp] theorem State.withLastEnd_fsm (e : U7) : (s.withLastEnd e).fsm = s.fsm := rfl
@[simp] theorem State.withLastEnd_ra1 (e : U7) : (s.withLastEnd e).ra1 = s.ra1 := rfl
@[simp] theorem State.withLastEnd_ra2 (e : U7) : (s.withLastEnd e).ra2 = s.ra2 := rfl
@[simp] theorem State.withLastEnd_ctl (e : U7) : (s.withLastEnd e).ctl = s.ctl := rfl
@[simp] theorem State.withLastEnd_out (e : U7) : (s.withLastEnd e).out = s.out := rfl
@[simp] theorem State.withLastEnd_capture (e : U7) : (s.withLastEnd e).capture = s.capture := rfl
@[simp] theorem State.withLastEnd_cfg (e : U7) : (s.withLastEnd e).cfg = s.cfg := rfl
@[simp] theorem State.withLastEnd_schedule (e : U7) : (s.withLastEnd e).schedule = s.schedule := rfl

/-! ## withParams -/

@[simp] theorem State.withParams_queue (p : Params) : (s.withParams p).queue = s.queue := rfl
@[simp] theorem State.withParams_lastEnd (p : Params) : (s.withParams p).lastEnd = s.lastEnd := rfl
@[simp] theorem State.withParams_params (p : Params) : (s.withParams p).params = p := rfl
@[simp] theorem State.withParams_fsm (p : Params) : (s.withParams p).fsm = s.fsm := rfl
@[simp] theorem State.withParams_ra1 (p : Params) : (s.withParams p).ra1 = s.ra1 := rfl
@[simp] theorem State.withParams_ra2 (p : Params) : (s.withParams p).ra2 = s.ra2 := rfl
@[simp] theorem State.withParams_ctl (p : Params) : (s.withParams p).ctl = s.ctl := rfl
@[simp] theorem State.withParams_out (p : Params) : (s.withParams p).out = s.out := rfl
@[simp] theorem State.withParams_capture (p : Params) : (s.withParams p).capture = s.capture := rfl
@[simp] theorem State.withParams_cfg (p : Params) : (s.withParams p).cfg = s.cfg := rfl
@[simp] theorem State.withParams_schedule (p : Params) : (s.withParams p).schedule = s.schedule := rfl

/-! ## withFsm -/

@[simp] theorem State.withFsm_queue (f : Fsm) : (s.withFsm f).queue = s.queue := rfl
@[simp] theorem State.withFsm_lastEnd (f : Fsm) : (s.withFsm f).lastEnd = s.lastEnd := rfl
@[simp] theorem State.withFsm_params (f : Fsm) : (s.withFsm f).params = s.params := rfl
@[simp] theorem State.withFsm_fsm (f : Fsm) : (s.withFsm f).fsm = f := rfl
@[simp] theorem State.withFsm_ra1 (f : Fsm) : (s.withFsm f).ra1 = s.ra1 := rfl
@[simp] theorem State.withFsm_ra2 (f : Fsm) : (s.withFsm f).ra2 = s.ra2 := rfl
@[simp] theorem State.withFsm_ctl (f : Fsm) : (s.withFsm f).ctl = s.ctl := rfl
@[simp] theorem State.withFsm_out (f : Fsm) : (s.withFsm f).out = s.out := rfl
@[simp] theorem State.withFsm_capture (f : Fsm) : (s.withFsm f).capture = s.capture := rfl
@[simp] theorem State.withFsm_cfg (f : Fsm) : (s.withFsm f).cfg = s.cfg := rfl
@[simp] theorem State.withFsm_schedule (f : Fsm) : (s.withFsm f).schedule = s.schedule := rfl

/-! ## withRa1 -/

@[simp] theorem State.withRa1_queue (r : Rolling) : (s.withRa1 r).queue = s.queue := rfl
@[simp] theorem State.withRa1_lastEnd (r : Rolling) : (s.withRa1 r).lastEnd = s.lastEnd := rfl
@[simp] theorem State.withRa1_params (r : Rolling) : (s.withRa1 r).params = s.params := rfl
@[simp] theorem State.withRa1_fsm (r : Rolling) : (s.withRa1 r).fsm = s.fsm := rfl
@[simp] theorem State.withRa1_ra1 (r : Rolling) : (s.withRa1 r).ra1 = r := rfl
@[simp] theorem State.withRa1_ra2 (r : Rolling) : (s.withRa1 r).ra2 = s.ra2 := rfl
@[simp] theorem State.withRa1_ctl (r : Rolling) : (s.withRa1 r).ctl = s.ctl := rfl
@[simp] theorem State.withRa1_out (r : Rolling) : (s.withRa1 r).out = s.out := rfl
@[simp] theorem State.withRa1_capture (r : Rolling) : (s.withRa1 r).capture = s.capture := rfl
@[simp] theorem State.withRa1_cfg (r : Rolling) : (s.withRa1 r).cfg = s.cfg := rfl
@[simp] theorem State.withRa1_schedule (r : Rolling) : (s.withRa1 r).schedule = s.schedule := rfl

/-! ## withRa2 -/

@[simp] theorem State.withRa2_queue (r : Rolling) : (s.withRa2 r).queue = s.queue := rfl
@[simp] theorem State.withRa2_lastEnd (r : Rolling) : (s.withRa2 r).lastEnd = s.lastEnd := rfl
@[simp] theorem State.withRa2_params (r : Rolling) : (s.withRa2 r).params = s.params := rfl
@[simp] theorem State.withRa2_fsm (r : Rolling) : (s.withRa2 r).fsm = s.fsm := rfl
@[simp] theorem State.withRa2_ra1 (r : Rolling) : (s.withRa2 r).ra1 = s.ra1 := rfl
@[simp] theorem State.withRa2_ra2 (r : Rolling) : (s.withRa2 r).ra2 = r := rfl
@[simp] theorem State.withRa2_ctl (r : Rolling) : (s.withRa2 r).ctl = s.ctl := rfl
@[simp] theorem State.withRa2_out (r : Rolling) : (s.withRa2 r).out = s.out := rfl
@[simp] theorem State.withRa2_capture (r : Rolling) : (s.withRa2 r).capture = s.capture := rfl
@[simp] theorem State.withRa2_cfg (r : Rolling) : (s.withRa2 r).cfg = s.cfg := rfl
@[simp] theorem State.withRa2_schedule (r : Rolling) : (s.withRa2 r).schedule = s.schedule := rfl

/-! ## withHalted -/

@[simp] theorem State.withHalted_queue (h : Bool) : (s.withHalted h).queue = s.queue := rfl
@[simp] theorem State.withHalted_lastEnd (h : Bool) : (s.withHalted h).lastEnd = s.lastEnd := rfl
@[simp] theorem State.withHalted_params (h : Bool) : (s.withHalted h).params = s.params := rfl
@[simp] theorem State.withHalted_fsm (h : Bool) : (s.withHalted h).fsm = s.fsm := rfl
@[simp] theorem State.withHalted_ra1 (h : Bool) : (s.withHalted h).ra1 = s.ra1 := rfl
@[simp] theorem State.withHalted_ra2 (h : Bool) : (s.withHalted h).ra2 = s.ra2 := rfl
@[simp] theorem State.withHalted_ctl (h : Bool) : (s.withHalted h).ctl = { s.ctl with halted := h } := rfl
@[simp] theorem State.withHalted_out (h : Bool) : (s.withHalted h).out = s.out := rfl
@[simp] theorem State.withHalted_capture (h : Bool) : (s.withHalted h).capture = s.capture := rfl
@[simp] theorem State.withHalted_cfg (h : Bool) : (s.withHalted h).cfg = s.cfg := rfl
@[simp] theorem State.withHalted_schedule (h : Bool) : (s.withHalted h).schedule = s.schedule := rfl

/-! ## withPopped -/

@[simp] theorem State.withPopped_queue (e : Option Event) : (s.withPopped e).queue = s.queue := rfl
@[simp] theorem State.withPopped_lastEnd (e : Option Event) : (s.withPopped e).lastEnd = s.lastEnd := rfl
@[simp] theorem State.withPopped_params (e : Option Event) : (s.withPopped e).params = s.params := rfl
@[simp] theorem State.withPopped_fsm (e : Option Event) : (s.withPopped e).fsm = s.fsm := rfl
@[simp] theorem State.withPopped_ra1 (e : Option Event) : (s.withPopped e).ra1 = s.ra1 := rfl
@[simp] theorem State.withPopped_ra2 (e : Option Event) : (s.withPopped e).ra2 = s.ra2 := rfl
@[simp] theorem State.withPopped_ctl (e : Option Event) : (s.withPopped e).ctl = { s.ctl with popped := e } := rfl
@[simp] theorem State.withPopped_out (e : Option Event) : (s.withPopped e).out = s.out := rfl
@[simp] theorem State.withPopped_capture (e : Option Event) : (s.withPopped e).capture = s.capture := rfl
@[simp] theorem State.withPopped_cfg (e : Option Event) : (s.withPopped e).cfg = s.cfg := rfl
@[simp] theorem State.withPopped_schedule (e : Option Event) : (s.withPopped e).schedule = s.schedule := rfl

/-! ## withCapture -/

@[simp] theorem State.withCapture_queue (c : Capture) : (s.withCapture c).queue = s.queue := rfl
@[simp] theorem State.withCapture_lastEnd (c : Capture) : (s.withCapture c).lastEnd = s.lastEnd := rfl
@[simp] theorem State.withCapture_params (c : Capture) : (s.withCapture c).params = s.params := rfl
@[simp] theorem State.withCapture_fsm (c : Capture) : (s.withCapture c).fsm = s.fsm := rfl
@[simp] theorem State.withCapture_ra1 (c : Capture) : (s.withCapture c).ra1 = s.ra1 := rfl
@[simp] theorem State.withCapture_ra2 (c : Capture) : (s.withCapture c).ra2 = s.ra2 := rfl
@[simp] theorem State.withCapture_ctl (c : Capture) : (s.withCapture c).ctl = s.ctl := rfl
@[simp] theorem State.withCapture_out (c : Capture) : (s.withCapture c).out = s.out := rfl
@[simp] theorem State.withCapture_capture (c : Capture) : (s.withCapture c).capture = c := rfl
@[simp] theorem State.withCapture_cfg (c : Capture) : (s.withCapture c).cfg = s.cfg := rfl
@[simp] theorem State.withCapture_schedule (c : Capture) : (s.withCapture c).schedule = s.schedule := rfl

/-! ## withSchedule -/

@[simp] theorem State.withSchedule_queue (m : List Move) : (s.withSchedule m).queue = s.queue := rfl
@[simp] theorem State.withSchedule_lastEnd (m : List Move) : (s.withSchedule m).lastEnd = s.lastEnd := rfl
@[simp] theorem State.withSchedule_params (m : List Move) : (s.withSchedule m).params = s.params := rfl
@[simp] theorem State.withSchedule_fsm (m : List Move) : (s.withSchedule m).fsm = s.fsm := rfl
@[simp] theorem State.withSchedule_ra1 (m : List Move) : (s.withSchedule m).ra1 = s.ra1 := rfl
@[simp] theorem State.withSchedule_ra2 (m : List Move) : (s.withSchedule m).ra2 = s.ra2 := rfl
@[simp] theorem State.withSchedule_ctl (m : List Move) : (s.withSchedule m).ctl = s.ctl := rfl
@[simp] theorem State.withSchedule_out (m : List Move) : (s.withSchedule m).out = s.out := rfl
@[simp] theorem State.withSchedule_capture (m : List Move) : (s.withSchedule m).capture = s.capture := rfl
@[simp] theorem State.withSchedule_cfg (m : List Move) : (s.withSchedule m).cfg = s.cfg := rfl
@[simp] theorem State.withSchedule_schedule (m : List Move) : (s.withSchedule m).schedule = m := rfl

/-! ## emit -/

@[simp] theorem State.emit_queue (r : Report) : (s.emit r).queue = s.queue := rfl
@[simp] theorem State.emit_lastEnd (r : Report) : (s.emit r).lastEnd = s.lastEnd := rfl
@[simp] theorem State.emit_params (r : Report) : (s.emit r).params = s.params := rfl
@[simp] theorem State.emit_fsm (r : Report) : (s.emit r).fsm = s.fsm := rfl
@[simp] theorem State.emit_ra1 (r : Report) : (s.emit r).ra1 = s.ra1 := rfl
@[simp] theorem State.emit_ra2 (r : Report) : (s.emit r).ra2 = s.ra2 := rfl
@[simp] theorem State.emit_ctl (r : Report) : (s.emit r).ctl = s.ctl := rfl
@[simp] theorem State.emit_out (r : Report) : (s.emit r).out = s.out ++ [r] := rfl
@[simp] theorem State.emit_capture (r : Report) : (s.emit r).capture = s.capture := rfl
@[simp] theorem State.emit_cfg (r : Report) : (s.emit r).cfg = s.cfg := rfl
@[simp] theorem State.emit_schedule (r : Report) : (s.emit r).schedule = s.schedule := rfl

end

end Sys2Proof.Machine
end

