-- ==== Sys2Proof/Laws/Outcomes.lean ====
section
/-!
SUPPORT. What the shared operations of the meanings can answer: the guards, the selection of a transition row, and
the errors.
-/

namespace Sys2Proof.Machine

/-- A running consumer passes the guard. -/
@[simp] theorem whenRunning_of_running {s : State} (h : s.ctl.halted = false) (k : Result) :
    whenRunning s k = k := by
  simp [whenRunning, h]

/-- A halted consumer faults. -/
@[simp] theorem whenRunning_of_halted {s : State} (h : s.ctl.halted = true) (k : Result) :
    whenRunning s k = .fault .overflow := by
  simp [whenRunning, h]

/-- An operation of the consumer answers a next state only if the consumer runs. -/
theorem whenRunning_next {s t : State} {k : Result} (h : whenRunning s k = .next t) :
    s.ctl.halted = false ∧ k = .next t := by
  cases hh : s.ctl.halted <;> simp_all [whenRunning]

/-- A transition row answers a next state only in its stage, and then the one it was given. -/
theorem inStage_next {st : Stage} {s t u : State} (h : inStage st s t = .next u) :
    s.ctl.halted = false ∧ s.fsm.stage = st ∧ u = t := by
  obtain ⟨hr, hk⟩ := whenRunning_next h
  split at hk
  · rename_i hs
    cases hk
    exact ⟨hr, hs, rfl⟩
  · cases hk

/-- In its stage a transition row of a running consumer answers the state it was given. -/
theorem inStage_run {st : Stage} {s : State} (hr : s.ctl.halted = false) (hs : s.fsm.stage = st) (t : State) :
    inStage st s t = .next t := by
  simp [inStage, hr, hs]

@[simp] theorem raiseOutOfSync_fsm (x : Input) (s : State) :
    (raiseOutOfSync x s).fsm = { s.fsm with stage := .idle, result := .noDownlink } := rfl
@[simp] theorem raiseOutOfSync_out (x : Input) (s : State) :
    (raiseOutOfSync x s).out = s.out ++ [⟨.idle, x.ts, .outOfSync x.kind s.fsm.stage⟩] := rfl

/-- The row selected for a pair the table does not list is the out-of-sync catch-all. -/
theorem selectRow_of_not_hasTransition {st : Stage} {x : Input} (h : hasTransition st x.kind = false) :
    selectRow st x = .outOfSync st x := by
  cases st <;> cases x <;> first | rfl | (simp [hasTransition, Input.kind] at h)

/-- Running a row of the transition table is executing it. -/
theorem runRow_selectRow (st : Stage) (x : Input) (s : State) :
    runRow (selectRow st x) s = exec (selectRow st x) s := by
  cases st <;> cases x <;> rfl

/-- Running a decoded transaction is executing it. -/
theorem runTxn_decodeTxn (ts : U32) (len : U7) (b0 b1 : Byte) (s : State) :
    runTxn (decodeTxn ts len b0 b1) s = exec (decodeTxn ts len b0 b1) s := by
  have hw : ∀ a : U7, runTxn (decodeWrite ts a b1) s = exec (decodeWrite ts a b1) s := by
    intro a
    unfold decodeWrite
    repeat' (split; · rfl)
    rfl
  unfold decodeTxn
  split
  · rfl
  · split
    · rfl
    · split
      · split
        · exact hw _
        · rfl
      · rfl

end Sys2Proof.Machine
end

