-- ==== Sys2Proof/Laws/Fsm.lean ====
section
/-!
SUPPORT. What delivering an input to the state machine can do, said once.
-/

namespace Sys2Proof.Machine

/-- `t` is `s` with one record for the input `x` emitted, the state machine rewritten, and at most one sample pushed
into a rolling average (44_timing_fsm.md R150–R153). -/
structure AfterInput (x : Input) (s t : State) : Prop where
  frame : OnlyFsmRaOut s t
  record : ∃ rep, t.out = s.out ++ [rep] ∧ rep.stage = t.fsm.stage ∧ rep.ts = x.ts
  window : t.fsm.windowKnown
  ra1 : t.ra1 = s.ra1 ∨ ∃ c, t.ra1 = s.ra1.push c
  ra2 : t.ra2 = s.ra2 ∨ ∃ c, t.ra2 = s.ra2.push c

/-- A running consumer's `signal` always answers a next state (R137–R147). -/
theorem signal_running {s : State} (h : s.ctl.halted = false) (x : Input) :
    ∃ t, signal x s = .next t ∧ AfterInput x s t := by
  cases ht : hasTransition s.fsm.stage x.kind
  · refine ⟨raiseOutOfSync x s, ?_, ⟨rfl, rfl, rfl, rfl, fun _ => rfl, rfl, rfl, rfl⟩, ⟨_, rfl, rfl, rfl⟩,
      by simp [Fsm.windowKnown], .inl rfl, .inl rfl⟩
    rw [signal, selectRow_of_not_hasTransition ht]
    simp only [runRow, execOutOfSync, ht, Bool.false_eq_true, if_false]
    exact inStage_run h rfl _
  · cases hs : s.fsm.stage <;> cases x <;> simp [hs, hasTransition, Input.kind] at ht <;>
      simp only [signal, hs, selectRow, runRow] <;>
      refine ⟨_, inStage_run h hs _, ⟨rfl, rfl, rfl, rfl, fun _ => rfl, rfl, rfl, rfl⟩, ⟨_, rfl, rfl, rfl⟩,
        by simp [Fsm.windowKnown], ?_, ?_⟩ <;>
      first
      | exact .inl rfl
      | exact .inr ⟨_, rfl⟩

end Sys2Proof.Machine
end

