-- ==== Sys2Proof/Laws/Memory.lean ====
section
/-!
SUPPORT. The laws of the capture memory: a read after a write, and the canonical form every operation keeps.
-/

namespace Sys2Proof.Machine

/-- A read at the written offset gives the written byte, any other read is as before. -/
@[simp] theorem Memory.lookup_write (m : List Host.Cell) (k j : Nat) (v : Byte) :
    Memory.lookup (Memory.write m k v) j = if k = j then some v else Memory.lookup m j := by
  induction m with
  | nil => simp [Memory.write, Memory.lookup]
  | cons c m ih =>
    obtain ⟨a, b⟩ := c
    by_cases hlt : k < a
    · simp [Memory.write, Memory.lookup, hlt]
    · by_cases hka : k = a
      · subst hka
        by_cases hj : k = j <;> simp [Memory.write, Memory.lookup, hj]
      · by_cases haj : a = j
        · subst haj
          simp [Memory.write, Memory.lookup, hlt, hka]
        · simp [Memory.write, Memory.lookup, hlt, hka, haj, ih]

/-- The offsets listed after a write: the written one and those listed before. -/
theorem Memory.mem_write {m : List Host.Cell} {k : Nat} {v : Byte} {c : Host.Cell}
    (h : c ∈ Memory.write m k v) : c = (k, v) ∨ c ∈ m := by
  induction m with
  | nil => simpa [Memory.write] using h
  | cons d m ih =>
    obtain ⟨a, b⟩ := d
    simp only [Memory.write] at h
    split at h
    · simpa using h
    · split at h
      · rcases List.mem_cons.1 h with h | h
        · exact .inl h
        · exact .inr (List.mem_cons_of_mem _ h)
      · rcases List.mem_cons.1 h with h | h
        · exact .inr (h ▸ List.mem_cons_self)
        · exact (ih h).imp id (List.mem_cons_of_mem _)

/-- A write keeps the offsets strictly rising. -/
theorem Memory.rising_write {m : List Host.Cell} (k : Nat) (v : Byte)
    (h : m.Pairwise fun a b => a.1 < b.1) : (Memory.write m k v).Pairwise fun a b => a.1 < b.1 := by
  induction m with
  | nil => simp [Memory.write]
  | cons d m ih =>
    obtain ⟨a, b⟩ := d
    obtain ⟨hd, hm⟩ := List.pairwise_cons.1 h
    simp only [Memory.write]
    split
    · rename_i hlt
      refine List.pairwise_cons.2 ⟨fun c hc => ?_, h⟩
      rcases List.mem_cons.1 hc with rfl | hc
      · exact hlt
      · exact lt_trans hlt (hd c hc)
    · split
      · rename_i _ hka
        subst hka
        exact List.pairwise_cons.2 ⟨hd, hm⟩
      · rename_i hlt hka
        refine List.pairwise_cons.2 ⟨fun c hc => ?_, ih hm⟩
        rcases Memory.mem_write hc with rfl | hc
        · show a < k
          omega
        · exact hd c hc

/-- A write of an offset of the address space keeps the canonical form. -/
theorem Memory.wf_write {m : List Host.Cell} (o : U7) (v : Byte) (h : Memory.wf m) :
    Memory.wf (Memory.write m o.toNat v) := by
  refine ⟨Memory.rising_write _ _ h.1, fun c hc => ?_⟩
  rcases Memory.mem_write hc with rfl | hc
  · exact o.isLt
  · exact h.2 c hc

/-- The capture memory after reset is in canonical form. -/
theorem Memory.wf_nil : Memory.wf [] := by simp [Memory.wf]

/-- A DMA write's byte is read back, every other offset reads as before. -/
theorem byteAt_dmaWrite (s : State) (o p : U7) (v : Byte) :
    (s.dmaWrite o v).capture.byteAt p = if o = p then v else s.capture.byteAt p := by
  by_cases h : o = p
  · simp [State.dmaWrite, State.withCapture, Capture.byteAt, h]
  · have : o.toNat ≠ p.toNat := fun e => h (BitVec.eq_of_toNat_eq e)
    simp [State.dmaWrite, State.withCapture, Capture.byteAt, Capture.unlisted, h, this]

/-- A DMA write keeps the canonical form. -/
theorem dmaWrite_wf {s : State} (o : U7) (v : Byte) (h : Memory.wf s.capture.mem) :
    Memory.wf (s.dmaWrite o v).capture.mem :=
  Memory.wf_write o v h

/-- What one capture read can do: nothing but advance the draw counter. -/
theorem capRead_cases (slot : U4) (o : U7) (s : State) :
    capRead slot o s = (s.capture.byteAt o, s) ∨
      capRead slot o s =
        (Config.tornByte s.capture.draws, s.withCapture { s.capture with draws := s.capture.draws + 1 }) := by
  unfold capRead
  split
  · exact .inr rfl
  · exact .inl rfl

/-- With no overwritten byte in a slot's transaction a capture read gives the buffer's byte. -/
theorem capRead_stable {slot : U4} {s : State} (h : ∀ t ∈ s.capture.torn, t.slot ≠ slot) (o : U7) :
    capRead slot o s = (s.capture.byteAt o, s) := by
  have : s.capture.torn.contains ⟨slot, o⟩ = false := by
    rw [List.contains_eq_mem, decide_eq_false_iff_not]
    exact fun hm => h _ hm rfl
  simp only [capRead, this, Bool.false_eq_true, if_false]

end Sys2Proof.Machine
end

