-- ==== Sys2Proof/Laws/PerInstr.lean ====
section
/-!
SUPPORT. A statement made once per constructor of Instr: what the encoder writes for a well-formed instruction is
none of the encodings that never occur (30_encoding.md R92), and no transaction whose length is an alias (R89).
-/

namespace Sys2Proof.Laws.EncodesLegally

/-- The encoding of a well-formed instruction is one the block can meet, with its own length. -/
def Statement (i : Instr) : Prop := i.wellFormed = true → (encode i).legal = true ∧ (encode i).unaliased = true

/-- The tag field of an event word reads back. -/
theorem tag_mkEventWord (tag : BitVec 2) (e : U7) (ts : U32) : eventTagField (mkEventWord tag e ts) = tag := by
  simp only [eventTagField, mkEventWord]
  ext i hi
  simp
  grind

/-- A length operand below 127 keeps a FIFO read below 128 bytes. -/
theorem legal_fifo {n : U7} (h : n.toNat ≤ 126) (ts : U32) :
    (encode (.fifoRead ts n)).legal = true ∧ (encode (.fifoRead ts n)).unaliased = true := by
  refine ⟨rfl, ?_⟩
  simp [encode, Encoded.unaliased]
  omega

/-- A command byte and L − 1 further bytes are below 128 bytes. -/
theorem legal_bytes (b : Byte) (len : U7) (ts : U32) :
    (Encoded.txn ts (b :: List.replicate (len.toNat - 1) 0)).legal = true ∧
      (Encoded.txn ts (b :: List.replicate (len.toNat - 1) 0)).unaliased = true := by
  have := len.isLt
  refine ⟨rfl, ?_⟩
  simp [Encoded.unaliased]
  omega

/-- A length operand of at most 126 is not 127. -/
theorem ne_127 {n : U7} (h : n.toNat ≤ 126) : n ≠ 127 := by
  rintro rfl
  simp at h

/-- A row's key is legal. -/
theorem legal_row (s : Stage) (x : Input) (h : x.wellFormed = true) :
    (encodeRow s x).legal = true ∧ (encodeRow s x).unaliased = true := by
  have hk : ∀ (s : Stage) (k : InputKind), (keyStageField (mkKey s k) != 7 &&
      decide ((keyInputField (mkKey s k)).toNat ≤ 4)) = true := by
    intro s k
    cases s <;> cases k <;> decide
  have hn : x.lengthOperand ≠ 127 := by
    apply ne_127
    cases x <;> simp_all [Input.wellFormed, Input.lengthOperand]
  refine ⟨?_, rfl⟩
  simp only [encodeRow, Encoded.legal, hk s x.kind, Bool.true_and]
  simpa using hn

theorem pushSpi (e : U7) (ts : U32) : Statement (.pushSpi e ts) := fun _ => by
  simp [encode, Encoded.legal, Encoded.unaliased, tag_mkEventWord]
theorem pushDone (ts : U32) : Statement (.pushDone ts) := fun _ => by
  simp [encode, Encoded.legal, Encoded.unaliased, tag_mkEventWord]
theorem pushTimeout (ts : U32) : Statement (.pushTimeout ts) := fun _ => by
  simp [encode, Encoded.legal, Encoded.unaliased, tag_mkEventWord]
theorem pop : Statement .pop := fun _ => ⟨rfl, rfl⟩
theorem overflowCheck : Statement .overflowCheck := fun _ => ⟨rfl, rfl⟩
theorem consumerStep : Statement .consumerStep := fun _ => ⟨rfl, rfl⟩
theorem spiEmpty : Statement .spiEmpty := fun _ => ⟨rfl, rfl⟩
theorem fifoRead (ts : U32) (n : U7) : Statement (.fifoRead ts n) := fun h =>
  legal_fifo (by simpa [Instr.wellFormed] using h) ts
theorem regWriteBadlen (a len : U7) : Statement (.regWriteBadlen a len) := fun _ => legal_bytes _ len 0
theorem regRead (a len : U7) : Statement (.regRead a len) := fun _ => legal_bytes _ len 0
theorem wrOpmode (ts : U32) (v : Byte) : Statement (.wrOpmode ts v) := fun _ => ⟨rfl, rfl⟩
theorem wrModemconfig1 (v : Byte) : Statement (.wrModemconfig1 v) := fun _ => ⟨rfl, rfl⟩
theorem wrModemconfig2 (v : Byte) : Statement (.wrModemconfig2 v) := fun _ => ⟨rfl, rfl⟩
theorem wrSymbtimeoutlsb (v : Byte) : Statement (.wrSymbtimeoutlsb v) := fun _ => ⟨rfl, rfl⟩
theorem wrPreamblemsb (v : Byte) : Statement (.wrPreamblemsb v) := fun _ => ⟨rfl, rfl⟩
theorem wrPreamblelsb (v : Byte) : Statement (.wrPreamblelsb v) := fun _ => ⟨rfl, rfl⟩
theorem wrPayloadlength (v : Byte) : Statement (.wrPayloadlength v) := fun _ => ⟨rfl, rfl⟩
theorem wrModemconfig3 (v : Byte) : Statement (.wrModemconfig3 v) := fun _ => ⟨rfl, rfl⟩
theorem wrOther (a : U7) (v : Byte) : Statement (.wrOther a v) := fun _ => ⟨rfl, rfl⟩
theorem tIdleTx (ts : U32) : Statement (.tIdleTx ts) := fun _ => legal_row _ _ rfl
theorem tTxDone (ts : U32) : Statement (.tTxDone ts) := fun _ => legal_row _ _ rfl
theorem tBrx1Rx (ts : U32) : Statement (.tBrx1Rx ts) := fun _ => legal_row _ _ rfl
theorem tRx1Done (ts : U32) : Statement (.tRx1Done ts) := fun _ => legal_row _ _ rfl
theorem tRx1Tmo (ts : U32) : Statement (.tRx1Tmo ts) := fun _ => legal_row _ _ rfl
theorem tBrx2Rx (ts : U32) : Statement (.tBrx2Rx ts) := fun _ => legal_row _ _ rfl
theorem tRx2Done (ts : U32) : Statement (.tRx2Done ts) := fun _ => legal_row _ _ rfl
theorem tRx2Tmo (ts : U32) : Statement (.tRx2Tmo ts) := fun _ => legal_row _ _ rfl
theorem tData (ts : U32) (n : U7) : Statement (.tData ts n) := fun h =>
  legal_row _ _ (by simpa [Input.wellFormed, Instr.wellFormed] using h)
theorem outOfSync (s : Stage) (x : Input) : Statement (.outOfSync s x) := fun h =>
  legal_row _ _ (by simp only [Instr.wellFormed, Bool.and_eq_true] at h; exact h.2)

end Sys2Proof.Laws.EncodesLegally
end

