-- ==== Sys2Proof/Laws/Queue.lean ====
section
/-!
SUPPORT. The laws of the queue storage and of the push and pop bodies.
-/

namespace Sys2Proof.Machine

/-- A slot reads as written, the other slots as before. -/
theorem Queue.slotRead_slotWrite (q : Queue) (i j : U4) (e : Event) :
    (q.slotWrite i e).slotRead j = if i = j then e else q.slotRead j := by
  by_cases h : i = j
  · subst h
    simp [Queue.slotRead, Queue.slotWrite]
  · have : i.toNat ≠ j.toNat := fun e => h (BitVec.eq_of_toNat_eq e)
    simp [Queue.slotRead, Queue.slotWrite, h, this]

@[simp] theorem Queue.slotWrite_head (q : Queue) (i : U4) (e : Event) : (q.slotWrite i e).head = q.head := rfl
@[simp] theorem Queue.slotWrite_tail (q : Queue) (i : U4) (e : Event) : (q.slotWrite i e).tail = q.tail := rfl
@[simp] theorem Queue.slotWrite_overflow (q : Queue) (i : U4) (e : Event) :
    (q.slotWrite i e).overflow = q.overflow := rfl

/-- All a push can do. -/
theorem Queue.push_cases (q : Queue) (e : Event) :
    (q.head + 1 = q.tail ∧ q.push e = { q with overflow := true }) ∨
      (q.head + 1 ≠ q.tail ∧ q.push e = { q.slotWrite q.head e with head := q.head + 1 }) := by
  by_cases h : q.head + 1 = q.tail
  · exact .inl ⟨h, if_pos (beq_iff_eq.2 h)⟩
  · exact .inr ⟨h, if_neg fun hf => h (beq_iff_eq.1 hf)⟩

/-- All a pop can do. -/
theorem Queue.pop_cases (q : Queue) :
    (q.head = q.tail ∧ q.pop = (none, q)) ∨
      (q.head ≠ q.tail ∧ q.pop = (some (q.slotRead q.tail), { q with tail := q.tail + 1 })) := by
  by_cases h : q.head = q.tail <;> simp [Queue.pop, Queue.empty, h]

/-- A pop writes no slot, no head and no overflow flag. -/
theorem Queue.pop_frame (q : Queue) :
    q.pop.2.slot = q.slot ∧ q.pop.2.head = q.head ∧ q.pop.2.overflow = q.overflow := by
  rcases q.pop_cases with ⟨_, h⟩ | ⟨_, h⟩ <;> simp [h]

/-- A push never moves the tail. -/
theorem Queue.push_tail (q : Queue) (e : Event) : (q.push e).tail = q.tail := by
  rcases q.push_cases e with ⟨_, h⟩ | ⟨_, h⟩ <;> simp [h]

/-- What a slot's record is after writing another record to a slot. -/
theorem Queue.mem_slotWrite {q : Queue} {i : U4} {e x : Event} (h : x ∈ (q.slotWrite i e).slot.toList) :
    x = e ∨ x ∈ q.slot.toList := by
  have h' : x ∈ q.slot.toList.set i.toNat e := by
    simpa [Queue.slotWrite, Vector.toList_set] using h
  exact (List.mem_or_eq_of_mem_set h').symm

end Sys2Proof.Machine
end

