-- ==== Sys2Proof/Laws/Spi.lean ====
section
/-!
SUPPORT. What a decoded transaction can do, said once, and what a push does to a rolling average's ring.
-/

namespace Sys2Proof.Machine

/-- `r` writes parameters that stay in range, and then signals one input with the transaction's timestamp or nothing
(42_spi_decoder.md R119). -/
def WritesThenSignals (ts : U32) (s : State) (r : Result) : Prop :=
  ∃ p, (s.params.inRange → p.inRange) ∧
    (r = .next (s.withParams p) ∨ ∃ x : Input, x.ts = ts ∧ r = signal x (s.withParams p))

/-- A handler that only writes parameters in range. -/
theorem writeParams_writes {s : State} (h : s.ctl.halted = false) (ts : U32) {p : Params}
    (hp : s.params.inRange → p.inRange) : WritesThenSignals ts s (writeParams s p) :=
  ⟨p, hp, .inl (by simp [writeParams, h])⟩

/-- An ignored form. -/
theorem ignored_writes {s : State} (h : s.ctl.halted = false) (ts : U32) :
    WritesThenSignals ts s (whenRunning s (.next s)) :=
  ⟨s.params, id, .inl (by rw [whenRunning_of_running h]; rfl)⟩

/-- All a decoded transaction can do for a running consumer (R110–R115, 43_register_writes.md R122–R131). -/
theorem exec_decodeTxn {s : State} (h : s.ctl.halted = false) (ts : U32) (len : U7) (b0 b1 : Byte) :
    WritesThenSignals ts s (exec (decodeTxn ts len b0 b1) s) := by
  unfold decodeTxn
  split_ifs
  · exact ignored_writes h ts
  · refine ⟨s.params, id, .inr ⟨.fifoLen ts (len - 1), rfl, ?_⟩⟩
    simp only [exec, execFifoRead, whenRunning_of_running h]
    rfl
  · unfold decodeWrite
    split_ifs
    · refine ⟨{ s.params with longRange := opmodeLongRange b1 }, id, ?_⟩
      simp only [exec, execWrOpmode, whenRunning_of_running h]
      split_ifs
      · exact .inr ⟨.txStart ts, rfl, rfl⟩
      · exact .inr ⟨.rxStart ts, rfl, rfl⟩
      · exact .inl rfl
    · refine writeParams_writes h ts fun hp => ⟨hp.1, ?_, hp.2.2⟩
      rcases acceptCodingRate_cases (mc1CodingRate b1) with ⟨_, _, r, hr, _⟩ | ⟨_, hr⟩
      · simp only [hr, Option.getD_some]
        omega
      · simpa only [hr, Option.getD_none] using hp.2.1
    · refine writeParams_writes h ts fun hp => ⟨?_, hp.2.1, ?_⟩
      · rcases acceptSpreadingFactor_cases (mc2SpreadingFactor b1) with ⟨h6, h12, hr⟩ | ⟨_, hr⟩
        · simpa only [hr, Option.getD_some] using ⟨h6, h12⟩
        · simpa only [hr, Option.getD_none] using hp.1
      · have := mc2TimeoutHigh_toNat b1
        simp [mergeHigh_toNat]
        omega
    · refine writeParams_writes h ts fun hp => ⟨hp.1, hp.2.1, ?_⟩
      have := b1.isLt
      have := hp.2.2
      simp only [mergeLow_toNat]
      omega
    · refine writeParams_writes h ts ?_
      exact fun hp => hp
    · refine writeParams_writes h ts ?_
      exact fun hp => hp
    · refine writeParams_writes h ts ?_
      exact fun hp => hp
    · refine writeParams_writes h ts ?_
      exact fun hp => hp
    · exact ignored_writes h ts
  · exact ignored_writes h ts
  · exact ignored_writes h ts

/-- A push on an aligned ring leaves it aligned (46_rolling_average.md R171, R174). -/
theorem Rolling.aligned_push {r : Rolling} (h : r.aligned) (c : S32) : (r.push c).aligned := by
  intro hlt
  have hm : min (r.count.val + 1) 20 < 20 := hlt
  show (r.next.val + 1) % 20 = min (r.count.val + 1) 20
  have := h (by omega)
  omega

end Sys2Proof.Machine
end

