-- ==== Sys2Proof/Laws/Step.lean ====
section
/-!
SUPPORT. What a step can do, said once: the cases of the consumer's iteration, of a fetched transaction, of an
event word at a port, and of a step.
-/

namespace Sys2Proof.Machine

/-- Reading a transaction's bytes changes nothing but the draw counter. -/
theorem fetchTxn_state (slot : U4) (start len : U7) (s : State) :
    ∃ d, (fetchTxn slot start len s).2.2 = s.withCapture { s.capture with draws := d } := by
  unfold fetchTxn
  split
  · exact ⟨s.capture.draws, rfl⟩
  · have key : ∀ (o : U7) (u : State), ∃ d, (capRead slot o u).2 = u.withCapture { u.capture with draws := d } := by
      intro o u
      rcases capRead_cases slot o u with h | h
      · exact ⟨u.capture.draws, by rw [h]; rfl⟩
      · exact ⟨u.capture.draws + 1, by rw [h]⟩
    obtain ⟨d0, h0⟩ := key start s
    dsimp only
    split
    · obtain ⟨d1, h1⟩ := key (start + 1) (capRead slot start s).2
      exact ⟨d1, by rw [h1, h0]; rfl⟩
    · exact ⟨d0, h0⟩

/-- The state a decoded transaction runs in: `d.last_end` moved, the slot's marks forgotten, nothing else of the
block touched (R110). -/
theorem onTransaction_cases (slot : U4) (ts : U32) (start stop : U7) (s : State) :
    ∃ b0 b1 d, onTransaction slot ts start stop s =
      exec (decodeTxn ts (txnLen start stop) b0 b1)
        ((s.withLastEnd stop).withCapture
          { s.capture with draws := d, torn := s.capture.torn.filter fun t => t.slot ≠ slot }) := by
  obtain ⟨d, hd⟩ := fetchTxn_state slot start (txnLen start stop) (s.withLastEnd stop)
  refine ⟨(fetchTxn slot start (txnLen start stop) (s.withLastEnd stop)).1,
    (fetchTxn slot start (txnLen start stop) (s.withLastEnd stop)).2.1, d, ?_⟩
  unfold onTransaction
  dsimp only
  rw [runTxn_decodeTxn, hd]
  rfl

/-- All the consumer's iteration can do when it answers a next state (R102). -/
theorem execConsumerStep_next {s t : State} (h : execConsumerStep s = .next t) :
    s.ctl.halted = false ∧
      ((s.queue.overflow = true ∧ t = s.withHalted true) ∨
        (s.queue.overflow = false ∧ s.queue.head = s.queue.tail ∧ t = s.withPopped none) ∨
        (s.queue.overflow = false ∧ s.queue.head ≠ s.queue.tail ∧
          dispatchEvent s.queue.tail (s.queue.slotRead s.queue.tail)
            ((s.withQueue { s.queue with tail := s.queue.tail + 1 }).withPopped none) = .next t)) := by
  obtain ⟨hr, hk⟩ := whenRunning_next h
  refine ⟨hr, ?_⟩
  cases ho : s.queue.overflow
  · have hc : overflowChecked s = s := by simp [overflowChecked, ho]
    rw [hc, hr] at hk
    simp only [Bool.false_eq_true, if_false] at hk
    rcases s.queue.pop_cases with ⟨he, hp⟩ | ⟨he, hp⟩
    · refine .inr (.inl ⟨rfl, he, ?_⟩)
      simpa [popAndDispatch, popEvent, hp, State.withQueue, State.withPopped] using hk.symm
    · refine .inr (.inr ⟨rfl, he, ?_⟩)
      simpa [popAndDispatch, popEvent, hp, State.withQueue, State.withPopped] using hk
  · have hc : overflowChecked s = s.withHalted true := by simp [overflowChecked, raiseOverflow, ho]
    rw [hc] at hk
    exact .inl ⟨rfl, by simpa using hk.symm⟩

/-- All an event word at a port can do when it answers a next state (R97–R99, R192). -/
theorem presentEvent_next {a : Agent} {w : EventWord} {s t : State} (h : presentEvent a w s = .next t) :
    ∃ e : Event, (e.tag ≠ .spiTransactionEnded → e.endOffset = 0) ∧ t = s.withQueue (s.queue.push e) := by
  unfold presentEvent decodeEvent at h
  split at h
  · cases h
  · rename_i i hi
    split at h
    · split at hi
      · cases hi
        exact ⟨_, fun hc => absurd rfl hc, (Host.Outcome.next.inj h).symm⟩
      · split at hi
        · cases hi
          exact ⟨_, fun _ => rfl, (Host.Outcome.next.inj h).symm⟩
        · split at hi
          · cases hi
            exact ⟨_, fun _ => rfl, (Host.Outcome.next.inj h).symm⟩
          · cases hi
    · cases h

/-- All a step can do when it answers a next state: the consumer's iteration, a push, a DMA write, or a reset. -/
theorem step_next {s t : State} (h : step s = .next t) :
    (∃ rest, s.schedule = .reset :: rest ∧ t = resetBlock (s.withSchedule rest)) ∨
      (∃ o v rest, s.schedule = .dmaWrite o v :: rest ∧ t = (s.withSchedule rest).dmaWrite o v) ∨
      (∃ a w rest e, s.schedule = .event a w :: rest ∧
        (e.tag ≠ .spiTransactionEnded → e.endOffset = 0) ∧
        t = (s.withSchedule rest).withQueue (s.queue.push e)) ∨
      (∃ rest, (s.schedule = [] ∧ rest = [] ∨ s.schedule = .consume .consumer :: rest) ∧
        execConsumerStep (s.withSchedule rest) = .next t) := by
  unfold step nextMove at h
  split at h
  · rename_i hs
    refine .inr (.inr (.inr ⟨[], .inl ⟨hs, rfl⟩, ?_⟩))
    have : s.withSchedule [] = s := by rw [← hs]; rfl
    rw [this]
    exact h
  · rename_i m rest hs
    cases m with
    | dmaWrite o v => exact .inr (.inl ⟨o, v, rest, hs, (Host.Outcome.next.inj h).symm⟩)
    | event a w =>
      obtain ⟨e, he, ht⟩ := presentEvent_next h
      exact .inr (.inr (.inl ⟨a, w, rest, e, hs, he, ht⟩))
    | consume a =>
      simp only [runMove] at h
      split at h
      · rename_i ha
        subst ha
        exact .inr (.inr (.inr ⟨rest, .inr hs, h⟩))
      · cases h
    | reset => exact .inl ⟨rest, hs, (Host.Outcome.next.inj h).symm⟩

end Sys2Proof.Machine
end

