-- ==== Sys2Proof/Tests/Slice0.lean ====
section
/-!
SUPPORT. Tests on fixed values. Expected results are the spec's: the vectors V-… and worked examples S… of
95_test_vectors.md and the table of 45_timing_arithmetic.md R169. At the end, one witness for the hypotheses of each
obligation.
-/

namespace Sys2Proof.Tests

open Sys2Proof Sys2Proof.Machine

/-! ## Helpers -/

/-- The reset state with the vectors' delays (95_test_vectors.md, preamble). -/
def base : State := { State.reset with cfg := ⟨1000000, 2000000⟩ }

/-- That state in a stage. -/
def inSt (st : Stage) : State := base.withFsm { Fsm.reset with stage := st }

/-- The reset state with `n` timeout events pushed, at 1000, 1001, … (program P3). -/
def pushed (n : Nat) : Queue :=
  (List.range n).foldl (fun q j => q.push ⟨.radioTimeout, 0, BitVec.ofNat 32 (1000 + j)⟩) Queue.reset

/-- A state with one event queued and the consumer's turn scheduled. -/
def queued (e : Event) : State := base.placeQueued e

/-- A state with one transaction queued at time 7, and the consumer's turn scheduled. -/
def txn (bytes : List Byte) : State := base.placeTxn 7 bytes

/-- A halted state. -/
def haltedState : State := (base.withQueue { pushed 15 with overflow := true }).withHalted true

/-- The next state an outcome holds, or `s`. -/
def nextOr (s : State) : Result → State
  | .next t => t
  | .fault _ => s
  | .refused _ => s

/-- Did it answer a next state? -/
def isNext : Result → Bool
  | .next _ => true
  | .fault _ => false
  | .refused _ => false

/-- An outcome that answers a next state is that next state. -/
theorem next_of_isNext {s : State} {r : Result} (h : isNext r = true) : r = .next (nextOr s r) := by
  cases r <;> simp_all [isNext, nextOr]

/-- The state after executing an instruction. -/
def run (i : Instr) (s : State) : State := nextOr s (exec i s)

/-- The state after one step. -/
def stepped (s : State) : State := nextOr s (step s)

/-! ## Ill-formed terms are refused -/

theorem test_ill_fifoRead : (Instr.fifoRead 0 127).wellFormed = false := by decide
theorem test_ill_badlen_zero : (Instr.regWriteBadlen 1 0).wellFormed = false := by decide
theorem test_ill_badlen_two : (Instr.regWriteBadlen 1 2).wellFormed = false := by decide
theorem test_ill_regRead_address : (Instr.regRead 0 2).wellFormed = false := by decide
theorem test_ill_regRead_length : (Instr.regRead 0x42 0).wellFormed = false := by decide
theorem test_ill_wrOther : (Instr.wrOther 0x1D 0).wellFormed = false := by decide
theorem test_ill_tData : (Instr.tData 0 127).wellFormed = false := by decide
theorem test_ill_outOfSync_pair : (Instr.outOfSync .idle (.txStart 0)).wellFormed = false := by decide
theorem test_ill_outOfSync_length : (Instr.outOfSync .idle (.fifoLen 0 127)).wellFormed = false := by decide
theorem test_well_outOfSync : (Instr.outOfSync .idle (.fifoLen 0 126)).wellFormed = true := by decide

/-! ## Decoding: one word written out from the spec's encoding for every constructor -/

/-- V-E4: tag 00, end offset 1111111, timestamp all ones. -/
theorem test_decode_pushSpi : decode (.event 0x07FFFFFFFFF) = .ok (.pushSpi 127 0xFFFFFFFF) := by decide
theorem test_decode_pushDone : decode (.event 0x08000006500) = .ok (.pushDone 25856) := by decide
theorem test_decode_pushTimeout : decode (.event 0x10000112A88) = .ok (.pushTimeout 1125000) := by decide
/-- V-E5. -/
theorem test_decode_eventTag3 : decode (.event 0x18000000000) = .error .eventTag3 := by decide
theorem test_decode_pop : decode (.internal .pop) = .ok .pop := by decide
theorem test_decode_overflowCheck : decode (.internal .overflowCheck) = .ok .overflowCheck := by decide
theorem test_decode_consumerStep : decode (.internal .consumerStep) = .ok .consumerStep := by decide
/-- V-D1. -/
theorem test_decode_spiEmpty : decode (.txn 7 []) = .ok .spiEmpty := by decide
/-- S6, V-D3. -/
theorem test_decode_fifoRead : decode (.txn 7 [0x00, 0x11, 0x22, 0x33]) = .ok (.fifoRead 7 3) := by decide
/-- V-D9. -/
theorem test_decode_badlen : decode (.txn 7 [0x81, 0x03, 0x00]) = .ok (.regWriteBadlen 0x01 3) := by decide
/-- V-D13. -/
theorem test_decode_regRead : decode (.txn 7 [0x01, 0, 0, 0, 0]) = .ok (.regRead 0x01 5) := by decide
/-- S4: 1 0000001, 00000011. -/
theorem test_decode_opmode : decode (.txn 7 [0x81, 0x03]) = .ok (.wrOpmode 7 0x03) := by decide
theorem test_decode_mc1 : decode (.txn 7 [0x9D, 0x72]) = .ok (.wrModemconfig1 0x72) := by decide
theorem test_decode_mc2 : decode (.txn 7 [0x9E, 0xC4]) = .ok (.wrModemconfig2 0xC4) := by decide
theorem test_decode_symbTimeout : decode (.txn 7 [0x9F, 0x05]) = .ok (.wrSymbtimeoutlsb 0x05) := by decide
theorem test_decode_preambleMsb : decode (.txn 7 [0xA0, 0x01]) = .ok (.wrPreamblemsb 0x01) := by decide
theorem test_decode_preambleLsb : decode (.txn 7 [0xA1, 0x0C]) = .ok (.wrPreamblelsb 0x0C) := by decide
theorem test_decode_payloadLength : decode (.txn 7 [0xA2, 0x00]) = .ok (.wrPayloadlength 0x00) := by decide
theorem test_decode_mc3 : decode (.txn 7 [0xA6, 0x08]) = .ok (.wrModemconfig3 0x08) := by decide
/-- V-D11. -/
theorem test_decode_wrOther : decode (.txn 7 [0x80, 0x55]) = .ok (.wrOther 0x00 0x55) := by decide
/-- R206: exactly 128 bytes read as SPI_EMPTY. -/
theorem test_decode_128_bytes : decode (.txn 7 (List.replicate 128 0x81)) = .ok .spiEmpty := by
  simp [decode, decodeBytes, seenBytes, decodeTxn]
/-- R206: 129 bytes read as one. -/
theorem test_decode_129_bytes : decode (.txn 7 (List.replicate 128 0 ++ [0x81])) = .ok (.regWriteBadlen 0x01 1) := by
  decide +kernel
/-- The keys of V-F13, stage code then input code. -/
theorem test_decode_tIdleTx : decode (.key 0b000000 9 0) = .ok (.tIdleTx 9) := by decide
theorem test_decode_tTxDone : decode (.key 0b001010 9 0) = .ok (.tTxDone 9) := by decide
theorem test_decode_tBrx1Rx : decode (.key 0b010001 9 0) = .ok (.tBrx1Rx 9) := by decide
theorem test_decode_tRx1Done : decode (.key 0b011010 9 0) = .ok (.tRx1Done 9) := by decide
theorem test_decode_tRx1Tmo : decode (.key 0b011011 9 0) = .ok (.tRx1Tmo 9) := by decide
theorem test_decode_tBrx2Rx : decode (.key 0b100001 9 0) = .ok (.tBrx2Rx 9) := by decide
theorem test_decode_tRx2Done : decode (.key 0b101010 9 0) = .ok (.tRx2Done 9) := by decide
theorem test_decode_tRx2Tmo : decode (.key 0b101011 9 0) = .ok (.tRx2Tmo 9) := by decide
theorem test_decode_tData : decode (.key 0b110100 9 5) = .ok (.tData 9 5) := by decide
theorem test_decode_outOfSync : decode (.key 0b000010 9 0) = .ok (.outOfSync .idle (.done 9)) := by decide
theorem test_decode_stageCode7 : decode (.key 0b111000 9 0) = .error .stageCode7 := by decide
theorem test_decode_inputCode : decode (.key 0b000101 9 0) = .error .inputCode := by decide
theorem test_decode_fifoLength : decode (.key 0b110100 9 127) = .error .fifoLength := by decide
theorem test_table_write : decodeTableWord 16 0x8103 = some (.wrOpmode 0 0x03) := by decide
theorem test_table_event : decodeTableWord 48 0x08000006500 = some (.pushDone 25856) := by decide
theorem test_table_key : decodeTableWord 8 0b00110100 = some (.tData 0 0) := by decide
theorem test_table_read : decodeTableWord 8 0x42 = some (.regRead 0x42 1) := by decide
theorem test_table_tag3 : decodeTableWord 48 0x18000000000 = none := by decide

/-! ## Event queue (V-Q1 to V-Q9) -/

/-- V-Q3: fifteen pushes fill the queue. -/
theorem test_queue_full : (pushed 15).head = 15 ∧ (pushed 15).tail = 0 ∧ (pushed 15).full = true ∧
    (pushed 15).overflow = false := by decide
/-- V-Q4: the sixteenth is lost. -/
theorem test_pushTimeout_overflow :
    (run (.pushTimeout 1015) (base.withQueue (pushed 15))).queue = { pushed 15 with overflow := true } := by decide
/-- V-Q5: slot 15, then slot 0. -/
theorem test_pushSpi_wraps :
    (run (.pushSpi 2 9) (base.withQueue { Queue.reset with head := 15, tail := 15 })).queue.head = 0 ∧
    (run (.pushSpi 2 9) (base.withQueue { Queue.reset with head := 15, tail := 15 })).queue.slotRead 15 =
      ⟨.spiTransactionEnded, 2, 9⟩ := by decide
/-- V-Q2: the event record of a done edge. -/
theorem test_pushDone_record : (run (.pushDone 5) base).queue.contents = [⟨.radioDone, 0, 5⟩] := by decide
/-- V-Q2: pops in push order. -/
theorem test_pop_order :
    (run .pop (base.withQueue (pushed 2))).ctl.popped = some ⟨.radioTimeout, 0, 1000⟩ ∧
    (run .pop (base.withQueue (pushed 2))).queue.tail = 1 := by decide
/-- R100: an empty queue gives none. -/
theorem test_pop_empty : (run .pop base).ctl.popped = none ∧ (run .pop base).queue = Queue.reset := by decide
/-- R101. -/
theorem test_overflowCheck :
    (run .overflowCheck (base.withQueue { pushed 15 with overflow := true })).haltPort = true ∧
    (run .overflowCheck base).haltPort = false := by decide
/-- V-Q7: the halt comes before any pop. -/
theorem test_consumerStep_halts :
    (run .consumerStep (base.withQueue { pushed 15 with overflow := true })).haltPort = true ∧
    (run .consumerStep (base.withQueue { pushed 15 with overflow := true })).queue.tail = 0 := by decide
/-- V-Q6: a full queue with head 3, tail 4: the step pops slot 4. -/
theorem test_consumerStep_pops :
    (run .consumerStep (base.withQueue { pushed 15 with head := 3, tail := 4 })).queue.tail = 5 := by decide

/-! ## SPI transactions (V-D1 to V-D14) -/

/-- V-D1: the empty transaction changes nothing. -/
theorem test_spiEmpty : (run .spiEmpty (inSt .inRx1)).fsm = (inSt .inRx1).fsm := by decide
/-- V-D8, V-D9: a write of a bad length starts no transmission. -/
theorem test_badlen : (run (.regWriteBadlen 0x01 3) base).fsm.stage = .idle ∧
    (run (.regWriteBadlen 0x01 3) base).out = [] := by decide
/-- V-D12. -/
theorem test_regRead : (run (.regRead 0x42 2) base).params = base.params := by decide
/-- S6: the data report carries length 3. -/
theorem test_fifoRead :
    (run (.fifoRead 9 3) (inSt .awaitingData)).out.map (·.body.code) = [8] ∧
    (run (.fifoRead 9 3) (inSt .idle)).out = [⟨.idle, 9, .outOfSync .fifoLen .idle⟩] := by decide
/-- S4: a whole step from the capture buffer. -/
theorem test_step_transaction : (stepped (txn [0x81, 0x03])).fsm.stage = .transmitting ∧
    (stepped (txn [0x81, 0x03])).lastEnd = 2 := by decide
/-- V-D7: the write straddles the end of the buffer, its value byte at offset 0. -/
theorem test_step_wrapped :
    (stepped (({ base with lastEnd := 127 } : State).placeTxn 7 [0x9E, 0x94])).params.sf = 9 ∧
    (stepped (({ base with lastEnd := 127 } : State).placeTxn 7 [0x9E, 0x94])).lastEnd = 1 := by decide

/-- R89, R206: a step on 130 bytes written round the buffer sees the last two. -/
theorem test_step_aliases : (stepped (txn (List.replicate 128 0 ++ [0x9E, 0x94]))).params.sf = 9 ∧
    (stepped (txn (List.replicate 128 0 ++ [0x9E, 0x94]))).lastEnd = 2 := by decide +kernel

/-! ## Register writes (V-W1 to V-W21) -/

/-- V-W1. -/
theorem test_opmode_tx : (run (.wrOpmode 9 0x03) base).out = [⟨.transmitting, 9, .txBegin⟩] ∧
    (run (.wrOpmode 9 0x03) base).params.longRange = false := by decide
/-- V-W2, V-W4: a receive start, and a mode that signals nothing. -/
theorem test_opmode_rx : (run (.wrOpmode 9 0x86) (inSt .beforeRx1)).fsm.stage = .inRx1 ∧
    (run (.wrOpmode 9 0x85) base).out = [] ∧ (run (.wrOpmode 9 0x85) base).params.longRange = true := by decide
/-- V-W7. -/
theorem test_mc1 : (run (.wrModemconfig1 0x98) base).params.bw = 500000 ∧
    (run (.wrModemconfig1 0x98) base).params.cr = 8 ∧ (run (.wrModemconfig1 0x98) base).params.ih = false := by decide
/-- V-W8, V-W10: each field is rejected by itself. -/
theorem test_mc1_rejects : (run (.wrModemconfig1 0xA3) base).params.bw = 125000 ∧
    (run (.wrModemconfig1 0xA3) base).params.ih = true ∧ (run (.wrModemconfig1 0x0E) base).params.bw = 7800 ∧
    (run (.wrModemconfig1 0x0E) base).params.cr = 5 := by decide
/-- V-W11. -/
theorem test_mc2 : (run (.wrModemconfig2 0xC4) base).params.sf = 12 ∧
    (run (.wrModemconfig2 0xC4) base).params.crc = true ∧
    (run (.wrModemconfig2 0xC4) base).params.symbTimeout = 0x0064 := by decide
/-- V-W12, V-W13. -/
theorem test_mc2_rejects : (run (.wrModemconfig2 0x53) base).params.sf = 7 ∧
    (run (.wrModemconfig2 0x53) base).params.symbTimeout = 0x0364 ∧
    (run (.wrModemconfig2 0xD7) base).params.sf = 7 := by decide
/-- V-W14. -/
theorem test_symbTimeoutLsb :
    (run (.wrSymbtimeoutlsb 0x05) (run (.wrModemconfig2 0x53) base)).params.symbTimeout = 0x0305 := by decide
/-- V-W16. -/
theorem test_preambleMsb : (run (.wrPreamblemsb 0x01) base).params.preamble = 264 := by decide
/-- V-W17. -/
theorem test_preambleLsb : (run (.wrPreamblelsb 0x0C) (run (.wrPreamblemsb 0x01) base)).params.preamble = 268 := by
  decide
/-- V-W18. -/
theorem test_payloadLength : (run (.wrPayloadlength 0) base).params.payloadLen = 0 := by decide
/-- V-W19, V-W20. -/
theorem test_mc3 : (run (.wrModemconfig3 0x08) base).params.ldro = true ∧
    (run (.wrModemconfig3 0xF7) (run (.wrModemconfig3 0x08) base)).params.ldro = false := by decide
/-- V-W21. -/
theorem test_wrOther : (run (.wrOther 0x0D 0) base).params = base.params := by decide

/-! ## The state machine (V-F1 to V-F12) -/

/-- The registers of V-F2 to V-F9 in a stage. -/
def midway (st : Stage) (start tx r1 r2 : U32) : State :=
  base.withFsm { Fsm.reset with stage := st, txStart := start, txEnd := tx, rx1Start := r1, rx2Start := r2 }

/-- V-F1. -/
theorem test_tIdleTx : (run (.tIdleTx 0) base).fsm.stage = .transmitting := by decide
/-- V-F2. -/
theorem test_tTxDone : (run (.tTxDone 25856) (midway .transmitting 0 0 0 0)).out =
    [⟨.beforeRx1, 25856, .txEnd 25856 25856 0⟩] := by decide
/-- V-F3. -/
theorem test_tBrx1Rx : (run (.tBrx1Rx 26856) (midway .beforeRx1 0 25856 0 0)).out =
    [⟨.inRx1, 26856, .rx1Open 1000⟩] := by decide
/-- V-F4. -/
theorem test_tRx1Done : (run (.tRx1Done 1040000) (midway .inRx1 0 0 1000000 0)).out =
    [⟨.awaitingData, 1040000, .rx1Downlink 40000⟩] ∧
    (run (.tRx1Done 1040000) (midway .inRx1 0 0 1000000 0)).fsm.result = .downlinkInRx1 := by decide
/-- V-F5. -/
theorem test_tRx1Tmo : (run (.tRx1Tmo 1080000) (midway .inRx1 0 25856 0 0)).out =
    [⟨.beforeRx2, 1080000, .rx1Timeout ⟨102400, 1083328, BitVec.ofInt 32 (-3328), -3328, 0, 1⟩⟩] := by decide
/-- V-F6. -/
theorem test_tBrx2Rx : (run (.tBrx2Rx 2025856) (midway .beforeRx2 0 25856 0 0)).out =
    [⟨.inRx2, 2025856, .rx2Open 2000000⟩] := by decide
/-- V-F7. -/
theorem test_tRx2Done : (run (.tRx2Done 2100000) (midway .inRx2 0 0 0 2000000)).out =
    [⟨.awaitingData, 2100000, .rx2Downlink 100000⟩] := by decide
/-- V-F8. -/
theorem test_tRx2Tmo : (run (.tRx2Tmo 2100000) (midway .inRx2 0 25856 0 0)).out =
    [⟨.idle, 2100000, .rx2Timeout ⟨102400, 2083328, 16672, 16672, 0, 1⟩⟩] ∧
    (run (.tRx2Tmo 2100000) (midway .inRx2 0 25856 0 0)).ra1 = Rolling.reset := by decide
/-- V-F9. -/
theorem test_tData : (run (.tData 2100300 1) (base.withFsm { Fsm.reset with
      stage := .awaitingData, result := .downlinkInRx2, rx2Start := 2000000, rx2End := 2100000 })).out =
    [⟨.idle, 2100300, .data 1 .rx2 100000 25856 74144⟩] := by decide
/-- V-F11, V-F12. -/
theorem test_outOfSync : (run (.outOfSync .transmitting (.txStart 4)) (inSt .transmitting)).out =
    [⟨.idle, 4, .outOfSync .txStart .transmitting⟩] ∧
    (run (.outOfSync .transmitting (.txStart 4)) (inSt .transmitting)).fsm.stage = .idle := by decide

/-! ## Error classes (60_exceptions.md R179) -/

/-- V-D8, V-W12, V-D12, V-Q4: who raises which class. -/
theorem test_errorRaised : errorRaised (.regWriteBadlen 0x01 1) base = some .malformed ∧
    errorRaised (.wrModemconfig2 0x53) base = some .malformed ∧ errorRaised (.regRead 0x42 2) base = none ∧
    errorRaised (.pushTimeout 1015) (base.withQueue (pushed 15)) = some .overflow := by decide
/-- V-W7, V-W8, V-W9: a value in range is no error, a rejected index or rate is. -/
theorem test_errorRaised_mc1 : errorRaised (.wrModemconfig1 0x98) base = none ∧
    errorRaised (.wrModemconfig1 0xA3) base = some .malformed ∧
    errorRaised (.wrModemconfig1 0x00) base = some .malformed := by decide
/-- P3 ends in the fault OVERFLOW, and an out-of-sync record has code 1. -/
theorem test_errorCodes : exec .consumerStep haltedState = .fault .overflow ∧ Fault.overflow.errorCode = some 3 ∧
    (run (.outOfSync .idle (.done 5)) base).out.map Report.errorCode = [some 1] := ⟨rfl, by decide, by decide⟩

/-! ## Timing arithmetic and rolling averages -/

/-- V-A1, V-A2 at their ends. -/
theorem test_symbolDuration : symbolDuration { Params.reset with bwIndex := 0 } = 16410 ∧
    symbolDuration { Params.reset with bwIndex := 9 } = 256 ∧
    symbolDuration { Params.reset with sf := 12 } = 32768 := by decide
/-- V-A3. -/
theorem test_preambleDuration : preambleDuration { Params.reset with bwIndex := 0 } = 201022 := by decide
/-- V-A4, V-A5. -/
theorem test_payloadSymbols :
    payloadSymbols { Params.reset with sf := 12, ldro := true, ih := true, cr := 8 } 0 = 8 ∧
    payloadSymbols Params.reset 0 = 13 := by decide
/-- S3 as 90_conflicts.md C1 corrects it, and V-W22. -/
theorem test_airTime : airTime Params.reset 1 = 25856 ∧ airTime { Params.reset with sf := 9 } 1 = 103424 ∧
    airTime Params.reset 3 = 30976 := by decide
/-- V-A9. -/
theorem test_optimalEnd_wraps : optimalEnd Params.reset 4294967000 1000000 = 1057176 ∧
    (correction Params.reset 4294967000 1000000 1057000).toInt = -176 := by decide
/-- S7, V-R2. -/
theorem test_rolling : (([10, 20, 30] : List S32).foldl Rolling.push Rolling.reset).mean = 20 ∧
    (([10, 20, 30] : List S32).foldl Rolling.push Rolling.reset).variance = 66 := by decide
/-- V-R3, V-R6: truncation toward zero. -/
theorem test_rolling_truncates : (([-1, -2] : List S32).foldl Rolling.push Rolling.reset).mean = -1 ∧
    (([-4, -4, -2] : List S32).foldl Rolling.push Rolling.reset).variance = 1 := by decide
/-- V-R8: the 21st sample overwrites the first. -/
theorem test_rolling_ring :
    (((List.range 21).map fun k => BitVec.ofNat 32 (k + 1)).foldl Rolling.push Rolling.reset).mean = 11 ∧
    (((List.range 21).map fun k => BitVec.ofNat 32 (k + 1)).foldl Rolling.push Rolling.reset).variance = 33 ∧
    (((List.range 21).map fun k => BitVec.ofNat 32 (k + 1)).foldl Rolling.push Rolling.reset).next = 1 := by decide

/-! ## Capture buffer and the stability duty -/

/-- A byte reads as written, and the cells stay sorted. -/
theorem test_capture_write : (((base.dmaWrite 5 0xAA).dmaWrite 2 0xBB).dmaWrite 5 0xCC).capture.mem =
    [(2, 0xBB), (5, 0xCC)] := by decide
/-- A write into a queued transaction marks its byte as overwritten (20_memory.md R67), one outside it does not. -/
theorem test_torn : ((txn [0x81, 0x03]).dmaWrite 1 0x06).capture.torn = [⟨0, 1⟩] ∧
    ((txn [0x81, 0x03]).dmaWrite 2 0x06).capture.torn = [] := by decide

/-! ## Witnesses: for each obligation with hypotheses, values that meet all of them, clause by clause -/

/-- A state about to pop a radio event. -/
def doneState : State := queued ⟨.radioDone, 0, 5⟩

/-- A state whose next move is `m`. -/
def moving (m : Move) : State := base.withSchedule [m]

theorem aboutToPop_txn (bs : List Byte) : (txn bs).aboutToPop := ⟨rfl, rfl, (by decide : (1 : U4) ≠ 0)⟩
theorem aboutToPop_queued (e : Event) : (queued e).aboutToPop := ⟨rfl, rfl, (by decide : (1 : U4) ≠ 0)⟩

theorem witness_DecodeEncodeRoundTrip : (Instr.fifoRead 1 126).wellFormed = true ∧
    (Instr.regWriteBadlen 0x7F 127).wellFormed = true ∧ (Instr.regRead 0x7F 127).wellFormed = true ∧
    (Instr.wrOther 0x7F 0xFF).wellFormed = true ∧ (Instr.tData 1 126).wellFormed = true ∧
    (Instr.outOfSync .idle (.fifoLen 1 126)).wellFormed = true := by decide

theorem witness_DecodedOperationsAreWellFormed : decode (.txn 7 [0x8D, 0]) = .ok (.wrOther 0x0D 0) ∧
    (List.replicate 128 (0 : Byte)).length % 128 = 0 ∧ (List.replicate 127 (0 : Byte)).length < 128 :=
  ⟨by decide, by simp, by simp⟩

/-- One length and first byte for each clause, at a boundary. -/
theorem witness_TransactionForms : (0 : U7).toNat = 0 ∧ (1 ≤ (127 : U7).toNat ∧ (0 : Byte).toNat = 0) ∧
    ((2 : U7).toNat = 2 ∧ 128 ≤ (0x80 : Byte).toNat) ∧
    (1 ≤ (3 : U7).toNat ∧ (3 : U7).toNat ≠ 2 ∧ 128 ≤ (0x80 : Byte).toNat) ∧
    (1 ≤ (1 : U7).toNat ∧ 1 ≤ (0x7F : Byte).toNat ∧ (0x7F : Byte).toNat < 128) := by decide

theorem witness_TwoByteWrites : 128 ≤ (0x80 : Byte).toNat ∧
    (0x80 : Byte) ∉ ([0x81, 0x9D, 0x9E, 0x9F, 0xA0, 0xA1, 0xA2, 0xA6] : List Byte) := by decide

/-- A length operand in range, and a key for each of the three clauses beside the nine transitions. -/
theorem witness_Keys : (126 : U7).toNat ≤ 126 ∧
    ((0b110011 : Key).toNat / 8 ≤ 6 ∧ (0b110011 : Key).toNat % 8 ≤ 4 ∧
      (0b110011 : Key) ∉ ([0b000000, 0b001010, 0b010001, 0b011010, 0b011011, 0b100001, 0b101010, 0b101011,
        0b110100] : List Key)) ∧
    (0b111000 : Key).toNat / 8 = 7 ∧
    ((0b110101 : Key).toNat / 8 ≤ 6 ∧ 5 ≤ (0b110101 : Key).toNat % 8) := by decide

/-- V-E4, V-E2, V-E3, V-E5 as numbers. -/
theorem witness_EventWordFields :
    (0x07FFFFFFFFF : EventWord).toNat = (127 : U7).toNat * 2 ^ 32 + (0xFFFFFFFF : U32).toNat ∧
    (0x08000006500 : EventWord).toNat = 2 ^ 39 + (0 : U7).toNat * 2 ^ 32 + (25856 : U32).toNat ∧
    (0x10000112A88 : EventWord).toNat = 2 * 2 ^ 39 + (0 : U7).toNat * 2 ^ 32 + (1125000 : U32).toNat ∧
    3 * 2 ^ 39 ≤ (0x18000000000 : EventWord).toNat := by decide

theorem witness_StepRunsThePresentedEvent :
    (moving (.event .prodDio0 0x08000006500)).schedule = .event .prodDio0 0x08000006500 :: [] ∧
    decode (.event 0x08000006500) = .ok (.pushDone 25856) ∧ agentOf (.pushDone 25856) = .prodDio0 :=
  ⟨rfl, by decide, rfl⟩

theorem witness_StepRunsTheDecodedTransaction :
    (txn [0x81, 0x03]).consumerTurn [] ∧ (txn [0x81, 0x03]).aboutToPop ∧
    (txn [0x81, 0x03]).frontEvent.tag = .spiTransactionEnded ∧
    (txn [0x81, 0x03]).stableSlot (txn [0x81, 0x03]).queue.tail ∧
    decode (.txn (txn [0x81, 0x03]).frontEvent.ts
      ((txn [0x81, 0x03]).capture.bytes (txn [0x81, 0x03]).lastEnd (txn [0x81, 0x03]).frontEvent.endOffset)) =
        .ok (.wrOpmode 7 0x03) :=
  ⟨.inr rfl, aboutToPop_txn _, rfl, fun b hb => (by cases hb), by decide⟩

theorem witness_StepRunsTheSelectedTransition :
    (doneState.consumerTurn [] ∧ doneState.aboutToPop ∧ doneState.frontEvent.tag = .radioDone ∧
      decode (.key (mkKey doneState.fsm.stage .done) doneState.frontEvent.ts 0) = .ok (.outOfSync .idle (.done 5))) ∧
    ((queued ⟨.radioTimeout, 0, 6⟩).consumerTurn [] ∧ (queued ⟨.radioTimeout, 0, 6⟩).aboutToPop ∧
      (queued ⟨.radioTimeout, 0, 6⟩).frontEvent.tag = .radioTimeout ∧
      decode (.key (mkKey (queued ⟨.radioTimeout, 0, 6⟩).fsm.stage .timeout)
        (queued ⟨.radioTimeout, 0, 6⟩).frontEvent.ts 0) = .ok (.outOfSync .idle (.timeout 6))) :=
  ⟨⟨.inr rfl, aboutToPop_queued _, rfl, by decide⟩, ⟨.inr rfl, aboutToPop_queued _, rfl, by decide⟩⟩

theorem witness_StepsOfTheEnvironment : base.consumerTurn [] ∧
    ((moving (.consume .prodSpi)).schedule = .consume .prodSpi :: [] ∧ Agent.prodSpi ≠ .consumer) ∧
    ((moving (.event .prodSpi 0x08000006500)).schedule = .event .prodSpi 0x08000006500 :: [] ∧
      decode (.event 0x08000006500) = .ok (.pushDone 25856) ∧ agentOf (.pushDone 25856) ≠ .prodSpi) ∧
    ((moving (.event .prodSpi 0x18000000000)).schedule = .event .prodSpi 0x18000000000 :: [] ∧
      3 * 2 ^ 39 ≤ (0x18000000000 : EventWord).toNat) :=
  ⟨.inl ⟨rfl, rfl⟩, ⟨rfl, by decide⟩, ⟨rfl, by decide, by decide⟩, ⟨rfl, by decide⟩⟩

/-- One event for each push; a queue with room and a full one. -/
theorem witness_PushWrites :
    ((∃ o ts, Instr.pushSpi 2 5 = .pushSpi o ts ∧
        (⟨.spiTransactionEnded, 2, 5⟩ : Event) = ⟨.spiTransactionEnded, o, ts⟩) ∧
      (∃ ts, Instr.pushDone 5 = .pushDone ts ∧ (⟨.radioDone, 0, 5⟩ : Event) = ⟨.radioDone, 0, ts⟩) ∧
      (∃ ts, Instr.pushTimeout 5 = .pushTimeout ts ∧ (⟨.radioTimeout, 0, 5⟩ : Event) = ⟨.radioTimeout, 0, ts⟩)) ∧
    ((pushed 14).head.toNat + 1) % 16 ≠ (pushed 14).tail.toNat ∧
    ((pushed 15).head.toNat + 1) % 16 = (pushed 15).tail.toNat :=
  ⟨⟨⟨_, _, rfl, rfl⟩, ⟨_, rfl, rfl⟩, ⟨_, rfl, rfl⟩⟩, by decide, by decide⟩

theorem witness_PushAppends : (pushed 14).count < 15 ∧ (pushed 15).count = 15 := by decide

theorem witness_PopTakes : (pushed 0).contents = [] ∧
    (pushed 2).contents = ⟨.radioTimeout, 0, 1000⟩ :: [⟨.radioTimeout, 0, 1001⟩] := by decide

/-- Fifteen events stay, the oldest is popped, and a sixteenth push still fits (V-Q6). -/
theorem witness_EventsArePopped : (pushed 15).overflow = false ∧
    (runQueue (pushed 15) [.pop, .push ⟨.radioDone, 0, 1⟩]).2.overflow = false := by decide

theorem witness_SixteenthPush : Queue.reset.overflow = false ∧ Queue.reset.head = Queue.reset.tail ∧
    (List.replicate 15 (⟨.radioDone, 0, 1⟩ : Event)).length = 15 := by decide

/-- A running consumer, with an empty queue and with an event. -/
theorem witness_PopOperation : (base.ctl.halted = false ∧ base.queue.head = base.queue.tail) ∧
    (doneState.ctl.halted = false ∧ doneState.queue.head ≠ doneState.queue.tail) := by decide

/-- A running consumer: for OverflowCheckResult, RunningConsumerAlwaysCompletes, IgnoredFormsChangeNothing,
ModemConfig1WritesItsFieldsIndependently, ModemConfig2WritesItsFieldsIndependently, ByteWritesMergeIntoTheirHalf and
PayloadLengthAndLdroWrites. -/
theorem witness_running : base.ctl.halted = false := rfl

theorem witness_RunningConsumerAlwaysCompletes : doneState.ctl.halted = false ∧ doneState.aboutToPop :=
  ⟨rfl, aboutToPop_queued _⟩

theorem witness_IdleStep : base.ctl.halted = false ∧ base.queue.overflow = false ∧ base.queue.head = base.queue.tail ∧
    base.ctl.popped = none := by decide

theorem witness_OverflowHalts : (base.withQueue { pushed 15 with overflow := true }).ctl.halted = false ∧
    (base.withQueue { pushed 15 with overflow := true }).queue.overflow = true := by decide

/-- A halted state, an operation of the consumer, and a push that still takes place in it. -/
theorem witness_HaltIsAbsorbing : haltedState.ctl.halted = true ∧ agentOf .consumerStep = .consumer ∧
    step (haltedState.withSchedule [.event .prodDio0 0x08000006500]) =
      .next (stepped (haltedState.withSchedule [.event .prodDio0 0x08000006500])) ∧
    (haltedState.withSchedule [.event .prodDio0 0x08000006500]).ctl.halted = true :=
  ⟨rfl, rfl, next_of_isNext (by decide), rfl⟩

theorem witness_OverflowFlagIsSticky :
    (step (haltedState.withSchedule [.event .prodDio0 0x08000006500]) =
        .next (stepped (haltedState.withSchedule [.event .prodDio0 0x08000006500])) ∧
      (haltedState.withSchedule [.event .prodDio0 0x08000006500]).queue.overflow = true ∧
      (haltedState.withSchedule [.event .prodDio0 0x08000006500]).ctl.halted = true ∧
      (∃ a w rest, (haltedState.withSchedule [.event .prodDio0 0x08000006500]).schedule = .event a w :: rest) ∧
      ¬ (haltedState.withSchedule [.event .prodDio0 0x08000006500]).resetNext) ∧
    (step (haltedState.withSchedule [.reset]) = .next (stepped (haltedState.withSchedule [.reset])) ∧
      (haltedState.withSchedule [.reset]).resetNext) :=
  ⟨⟨next_of_isNext (by decide), rfl, rfl, ⟨_, _, _, rfl⟩, fun ⟨_, h⟩ => (by cases h)⟩, next_of_isNext (by decide),
    ⟨[], rfl⟩⟩

theorem witness_EachElementHasOneWritingAgent :
    step (moving (.event .prodDio0 0x08000006500)) = .next (stepped (moving (.event .prodDio0 0x08000006500))) ∧
    (step (txn [0x81, 0x03]) = .next (stepped (txn [0x81, 0x03])) ∧ (txn [0x81, 0x03]).consumerTurn []) ∧
    step (moving (.dmaWrite 127 0xFF)) = .next (stepped (moving (.dmaWrite 127 0xFF))) :=
  ⟨next_of_isNext (by decide), ⟨next_of_isNext (by decide), .inr rfl⟩, next_of_isNext (by decide)⟩

theorem witness_FifoRead : ((inSt .awaitingData).ctl.halted = false ∧ (inSt .awaitingData).fsm.stage = .awaitingData) ∧
    ((inSt .idle).ctl.halted = false ∧ (inSt .idle).fsm.stage ≠ .awaitingData) := by decide

theorem witness_DecoderPosition :
    ((txn [0x81, 0x03]).aboutToPop ∧
      exec .consumerStep (txn [0x81, 0x03]) = .next (run .consumerStep (txn [0x81, 0x03])) ∧
      (txn [0x81, 0x03]).frontEvent.tag = .spiTransactionEnded) ∧
    (doneState.aboutToPop ∧ exec .consumerStep doneState = .next (run .consumerStep doneState) ∧
      doneState.frontEvent.tag ≠ .spiTransactionEnded) :=
  ⟨⟨aboutToPop_txn _, next_of_isNext (by decide), rfl⟩,
    ⟨aboutToPop_queued _, next_of_isNext (by decide), by decide⟩⟩

/-- The three kinds: no byte, a write burst of three bytes (V-D9), a read (V-D12). -/
theorem witness_Malformed :
    ((txn []).aboutToPop ∧ (txn []).frontEvent.tag = .spiTransactionEnded ∧ (txn []).stableSlot (txn []).queue.tail ∧
      0 = ((txn []).frontEvent.endOffset.toNat + 128 - (txn []).lastEnd.toNat) % 128) ∧
    ((txn [0x81, 0x03, 0x00]).aboutToPop ∧ (txn [0x81, 0x03, 0x00]).frontEvent.tag = .spiTransactionEnded ∧
      (txn [0x81, 0x03, 0x00]).stableSlot (txn [0x81, 0x03, 0x00]).queue.tail ∧
      3 = ((txn [0x81, 0x03, 0x00]).frontEvent.endOffset.toNat + 128 - (txn [0x81, 0x03, 0x00]).lastEnd.toNat) % 128 ∧
      0x81 = (txn [0x81, 0x03, 0x00]).capture.byteAt (txn [0x81, 0x03, 0x00]).lastEnd ∧
      (3 : Nat) ≠ 2 ∧ 128 ≤ (0x81 : Byte).toNat) ∧
    ((txn [0x42, 0x12]).aboutToPop ∧ (txn [0x42, 0x12]).frontEvent.tag = .spiTransactionEnded ∧
      (txn [0x42, 0x12]).stableSlot (txn [0x42, 0x12]).queue.tail ∧
      2 = ((txn [0x42, 0x12]).frontEvent.endOffset.toNat + 128 - (txn [0x42, 0x12]).lastEnd.toNat) % 128 ∧
      0x42 = (txn [0x42, 0x12]).capture.byteAt (txn [0x42, 0x12]).lastEnd ∧
      1 ≤ (0x42 : Byte).toNat ∧ (0x42 : Byte).toNat < 128) :=
  ⟨⟨aboutToPop_txn _, rfl, fun b hb => (by cases hb), by decide⟩,
    ⟨aboutToPop_txn _, rfl, fun b hb => (by cases hb), by decide, by decide, by decide, by decide⟩,
    ⟨aboutToPop_txn _, rfl, fun b hb => (by cases hb), by decide, by decide, by decide, by decide⟩⟩

/-- A running consumer in each of the five cases of WR_OPMODE, and the state the flag is written to. -/
theorem witness_Opmode (st : Stage) (v : Byte) : (inSt st).ctl.halted = false ∧
    ∃ s', s' = ({ inSt st with params := { (inSt st).params with longRange := decide (128 ≤ v.toNat) } } : State) :=
  ⟨rfl, _, rfl⟩

theorem witness_Opmode_values : (0x03 : Byte).toNat % 8 = 3 ∧ (0x86 : Byte).toNat % 8 = 6 ∧
    (0xFF : Byte).toNat % 8 ≠ 3 ∧ (0xFF : Byte).toNat % 8 ≠ 6 ∧ (inSt .idle).fsm.stage = .idle ∧
    (inSt .inRx1).fsm.stage ≠ .idle ∧ (inSt .beforeRx1).fsm.stage = .beforeRx1 ∧
    (inSt .beforeRx2).fsm.stage = .beforeRx2 ∧ (inSt .inRx1).fsm.stage ≠ .beforeRx1 ∧
    (inSt .inRx1).fsm.stage ≠ .beforeRx2 := by decide

/-- Accepted and rejected fields of V at their boundaries. -/
theorem witness_ModemConfig : (0x9F : Byte).toNat / 16 < 10 ∧ 10 ≤ (0xA0 : Byte).toNat / 16 ∧
    (5 ≤ (0x02 : Byte).toNat / 2 % 8 + 4 ∧ (0x02 : Byte).toNat / 2 % 8 + 4 ≤ 8) ∧
    ¬ (5 ≤ (0x0A : Byte).toNat / 2 % 8 + 4 ∧ (0x0A : Byte).toNat / 2 % 8 + 4 ≤ 8) ∧
    (6 ≤ (0x60 : Byte).toNat / 16 ∧ (0xC0 : Byte).toNat / 16 ≤ 12) ∧ ¬ (6 ≤ (0x5F : Byte).toNat / 16) ∧
    ¬ ((0xD0 : Byte).toNat / 16 ≤ 12) := by decide

theorem witness_TxStartInIdle : (inSt .idle).ctl.halted = false ∧ (inSt .idle).fsm.stage = .idle := by decide

theorem witness_RadioDoneInTransmitting : (midway .transmitting 4294960000 0 0 0).ctl.halted = false ∧
    (midway .transmitting 4294960000 0 0 0).fsm.stage = .transmitting ∧
    (25856 : U32).toNat = ((18560 : U32).toNat + 2 ^ 32 -
      (midway .transmitting 4294960000 0 0 0).fsm.txStart.toNat) % 2 ^ 32 := by decide

theorem witness_RxStartBeforeRx1 : (midway .beforeRx1 0 25856 0 0).ctl.halted = false ∧
    (midway .beforeRx1 0 25856 0 0).fsm.stage = .beforeRx1 ∧
    (1000 : U32).toNat = ((26856 : U32).toNat + 2 ^ 32 - (midway .beforeRx1 0 25856 0 0).fsm.txEnd.toNat) % 2 ^ 32 := by
  decide

theorem witness_RadioDoneInRx1 : (midway .inRx1 0 0 1000000 0).ctl.halted = false ∧
    (midway .inRx1 0 0 1000000 0).fsm.stage = .inRx1 ∧
    (40000 : U32).toNat = ((1040000 : U32).toNat + 2 ^ 32 -
      (midway .inRx1 0 0 1000000 0).fsm.rx1Start.toNat) % 2 ^ 32 := by decide

theorem witness_TimeoutInRx1 : (midway .inRx1 0 25856 0 0).ctl.halted = false ∧
    (midway .inRx1 0 25856 0 0).fsm.stage = .inRx1 ∧
    16672 = correction (midway .inRx1 0 25856 0 0).params (midway .inRx1 0 25856 0 0).fsm.txEnd
      (midway .inRx1 0 25856 0 0).cfg.rx1DelayUs 1100000 ∧
    Rolling.reset.push 16672 = (midway .inRx1 0 25856 0 0).ra1.push 16672 := by decide

theorem witness_RxStartBeforeRx2 : (midway .beforeRx2 0 25856 0 0).ctl.halted = false ∧
    (midway .beforeRx2 0 25856 0 0).fsm.stage = .beforeRx2 ∧
    (2000000 : U32).toNat = ((2025856 : U32).toNat + 2 ^ 32 -
      (midway .beforeRx2 0 25856 0 0).fsm.txEnd.toNat) % 2 ^ 32 := by decide

theorem witness_RadioDoneInRx2 : (midway .inRx2 0 0 0 2000000).ctl.halted = false ∧
    (midway .inRx2 0 0 0 2000000).fsm.stage = .inRx2 ∧
    (100000 : U32).toNat = ((2100000 : U32).toNat + 2 ^ 32 -
      (midway .inRx2 0 0 0 2000000).fsm.rx2Start.toNat) % 2 ^ 32 := by decide

theorem witness_TimeoutInRx2 : (midway .inRx2 0 25856 0 0).ctl.halted = false ∧
    (midway .inRx2 0 25856 0 0).fsm.stage = .inRx2 ∧
    16672 = correction (midway .inRx2 0 25856 0 0).params (midway .inRx2 0 25856 0 0).fsm.txEnd
      (midway .inRx2 0 25856 0 0).cfg.rx2DelayUs 2100000 ∧
    Rolling.reset.push 16672 = (midway .inRx2 0 25856 0 0).ra2.push 16672 := by decide

/-- Waiting for the data of a downlink in window 1, and of one in window 2. -/
def awaiting (r : DownlinkResult) : State :=
  base.withFsm { Fsm.reset with stage := .awaitingData, result := r, rx1End := 13000, rx2End := 100000 }

theorem witness_FifoLengthInAwaitingData :
    ((awaiting .downlinkInRx1).ctl.halted = false ∧ (awaiting .downlinkInRx1).fsm.stage = .awaitingData ∧
      (awaiting .downlinkInRx1).fsm.result = .downlinkInRx1 ∧ (13000 : U32).toNat =
        ((awaiting .downlinkInRx1).fsm.rx1End.toNat + 2 ^ 32 -
          (awaiting .downlinkInRx1).fsm.rx1Start.toNat) % 2 ^ 32) ∧
    ((awaiting .downlinkInRx2).ctl.halted = false ∧ (awaiting .downlinkInRx2).fsm.stage = .awaitingData ∧
      (awaiting .downlinkInRx2).fsm.result ≠ .downlinkInRx1 ∧ (100000 : U32).toNat =
        ((awaiting .downlinkInRx2).fsm.rx2End.toNat + 2 ^ 32 -
          (awaiting .downlinkInRx2).fsm.rx2Start.toNat) % 2 ^ 32) := by decide

theorem witness_OutOfSync : (inSt .awaitingData).ctl.halted = false ∧
    hasTransition (inSt .awaitingData).fsm.stage (Input.done 5).kind = false := by decide

theorem witness_TransitionRows : base.ctl.halted = false ∧
    (rowStage (.tTxDone 5) = some .transmitting ∧ base.fsm.stage ≠ .transmitting) ∧
    hasTransition .idle (Input.txStart 5).kind = true := by decide

/-- A stage that changes along the table, and one that changes by an out-of-sync. -/
theorem witness_StageChanges :
    (step (txn [0x81, 0x03]) = .next (stepped (txn [0x81, 0x03])) ∧ ¬ (txn [0x81, 0x03]).resetNext ∧
      (stepped (txn [0x81, 0x03])).fsm.stage ≠ (txn [0x81, 0x03]).fsm.stage) ∧
    (step ((inSt .beforeRx1).placeQueued ⟨.radioDone, 0, 5⟩) =
        .next (stepped ((inSt .beforeRx1).placeQueued ⟨.radioDone, 0, 5⟩)) ∧
      ¬ ((inSt .beforeRx1).placeQueued ⟨.radioDone, 0, 5⟩).resetNext ∧
      (stepped ((inSt .beforeRx1).placeQueued ⟨.radioDone, 0, 5⟩)).fsm.stage ≠
        ((inSt .beforeRx1).placeQueued ⟨.radioDone, 0, 5⟩).fsm.stage) :=
  ⟨⟨next_of_isNext (by decide), fun ⟨_, h⟩ => (by cases h), by decide⟩,
    ⟨next_of_isNext (by decide), fun ⟨_, h⟩ => (by cases h), by decide⟩⟩

/-- A step that emits a record and one that emits none: for OneRecordPerInputWithItsTimestamp and
ResultHasFourWriters. -/
theorem witness_records :
    (step doneState = .next (stepped doneState) ∧ ¬ doneState.resetNext ∧
      (stepped doneState).out = doneState.out ++ [⟨.idle, 5, .outOfSync .done .idle⟩]) ∧
    (step (txn [0x42, 0x12]) = .next (stepped (txn [0x42, 0x12])) ∧ ¬ (txn [0x42, 0x12]).resetNext ∧
      (stepped (txn [0x42, 0x12])).out = (txn [0x42, 0x12]).out) :=
  ⟨⟨next_of_isNext (by decide), fun ⟨_, h⟩ => (by cases h), by decide⟩,
    ⟨next_of_isNext (by decide), fun ⟨_, h⟩ => (by cases h), by decide⟩⟩

/-- A state with a queued transaction meets the invariant and steps. -/
theorem witness_EveryStepKeepsTheInvariant : (txn [0x81, 0x03]).Inv ∧
    step (txn [0x81, 0x03]) = .next (stepped (txn [0x81, 0x03])) :=
  ⟨⟨by decide, by decide, by decide, by decide, by decide, by decide, by decide, by decide⟩, next_of_isNext (by decide)⟩

theorem witness_Reset : (haltedState.withSchedule [.reset]).schedule = .reset :: [] := rfl

/-- Also for TimingDurationsInNumbers. -/
theorem witness_TimingArithmeticRanges : Params.reset.inRange ∧ 255 ≤ 255 ∧
    ({ Params.reset with sf := 12, cr := 8, symbTimeout := 1023 } : Params).inRange ∧
    ({ Params.reset with sf := 6, cr := 5, symbTimeout := 0 } : Params).inRange := by decide

/-- For a positive and for a negative numerator (V-A5, V-A4). -/
theorem witness_PayloadSymbols :
    (Params.reset.inRange ∧ (16 : Int) = 8 * ((0 : Nat) : Int) - 4 * (Params.reset.sf.toNat : Int) + 44 -
        (if Params.reset.ih then 20 else 0) ∧
      (28 : Int) = 4 * ((Params.reset.sf.toNat : Int) - (if Params.reset.ldro then 2 else 0)) ∧ (0 : Int) < 16) ∧
    (({ Params.reset with sf := 12, ih := true, ldro := true } : Params).inRange ∧
      (-24 : Int) = 8 * ((0 : Nat) : Int) - 4 * ((12 : BitVec 4).toNat : Int) + 44 - (if true then 20 else 0) ∧
      (40 : Int) = 4 * (((12 : BitVec 4).toNat : Int) - (if true then 2 else 0)) ∧ (-24 : Int) ≤ 0) := by decide

/-- V-A8: a window that ended 3328 µs early. -/
theorem witness_Correction : (-2 ^ 31 : Int) ≤ -3328 ∧ (-3328 : Int) < 2 ^ 31 ∧
    (((1080000 : U32).toNat : Nat) : Int) =
      (((optimalEnd Params.reset 25856 1000000).toNat : Int) + -3328) % 2 ^ 32 := by decide

theorem witness_OptimalEnd : Params.reset.inRange ∧
    ((57472 : Nat) : Int) = (preambleDuration Params.reset + windowLen Params.reset) / 2 := by decide

/-- An empty ring whose slots hold other values than after reset. -/
def usedRing : Rolling := { Rolling.reset with sample := Vector.replicate 20 7 }

/-- Below twenty samples and above. -/
theorem witness_HeldSamples : usedRing.next = 0 ∧ usedRing.count = 0 ∧ ([10, 20, 30] : List S32).length < 20 ∧
    ∃ r, r = (List.replicate 21 (1 : S32)).foldl Rolling.push usedRing := ⟨rfl, rfl, by decide, _, rfl⟩

/-- The ring of V-R8 and a ring with the same samples in another order. -/
theorem witness_MeanAndVarianceIgnoreTheOrder :
    (([10, 20, 30] : List S32).foldl Rolling.push Rolling.reset).held.Perm
      (([30, 10, 20] : List S32).foldl Rolling.push Rolling.reset).held := by decide

theorem witness_MeanAndVarianceTruncate :
    ((0 : Int) = (Rolling.reset.count.val : Int) ∧
      (0 : Int) = (Rolling.reset.held.map fun x => (x - Rolling.reset.mean) ^ 2).sum) ∧
    ((3 : Int) = ((([-5, 5, 7] : List S32).foldl Rolling.push Rolling.reset).count.val : Int) ∧
      (83 : Int) = ((([-5, 5, 7] : List S32).foldl Rolling.push Rolling.reset).held.map fun x =>
        (x - (([-5, 5, 7] : List S32).foldl Rolling.push Rolling.reset).mean) ^ 2).sum ∧ (0 : Int) < 3) := by decide

theorem witness_CaptureBytes : (moving (.dmaWrite 127 0xFF)).schedule = .dmaWrite 127 0xFF :: [] ∧
    (step (txn [0x81, 0x03]) = .next (stepped (txn [0x81, 0x03])) ∧ ¬ (txn [0x81, 0x03]).resetNext ∧
      ∀ o v rest, (txn [0x81, 0x03]).schedule ≠ .dmaWrite o v :: rest) :=
  ⟨rfl, next_of_isNext (by decide), fun ⟨_, h⟩ => (by cases h), fun o v rest h => (by cases h)⟩

end Sys2Proof.Tests
end

/-! The move a step takes, and an event word at a producer's port (00_scope.md R6, R12). -/

namespace Sys2Proof.Machine

/-- The first scheduled move is the one a step makes, with that move taken off the schedule. -/
theorem step_of_schedule_cons {s : State} {m : Move} {rest : List Move} (h : s.schedule = m :: rest) :
    step s = runMove m (s.withSchedule rest) := by
  simp only [step, nextMove, h]

/-- At its own producer's port an event word is the push it decodes to (R97, R98, R99). -/
theorem presentEvent_of_producer {a : Agent} {w : EventWord} {i : Instr} (hdec : decode (.event w) = .ok i)
    (hport : agentOf i = a) (s : State) : presentEvent a w s = exec i s := by
  have hword : decodeEvent w = .ok i := hdec
  simp only [presentEvent, hword, if_pos hport]

/-- Settles O8: the step makes the scheduled move, and that move presents the word at its producer's port. -/
theorem stepRunsThePresentedEvent : Obligations.StepRunsThePresentedEvent := by
  intro s a w rest i hsched hdec hport
  calc step s
    _ = presentEvent a w (s.withSchedule rest) := step_of_schedule_cons hsched
    _ = exec i (s.withSchedule rest) := presentEvent_of_producer hdec hport _

end Sys2Proof.Machine

/-! The queue's logical contents under a push and a pop (10_state.md R23, 41_event_queue.md R95, R96, R100). -/

namespace Sys2Proof.Machine

/-- At most 15 of the 16 slots are ever counted as held. -/
theorem Queue.count_le_fifteen (q : Queue) : q.count ≤ 15 :=
  Nat.le_of_lt_succ (q.head - q.tail).isLt

/-- A push meets a full queue exactly when 15 events are held (R95). -/
theorem Queue.head_succ_eq_tail_iff (q : Queue) : q.head + 1 = q.tail ↔ q.count = 15 := by
  unfold Queue.count
  bv_omega

/-- The queue is empty exactly when no event is held (R95). -/
theorem Queue.head_eq_tail_iff (q : Queue) : q.head = q.tail ↔ q.count = 0 := by
  unfold Queue.count
  bv_omega

/-- The slot after the held events is the one at head. -/
theorem Queue.tail_add_count (q : Queue) : q.tail + BitVec.ofNat 4 q.count = q.head := by
  unfold Queue.count
  bv_omega

/-- No held event stands in the slot at head. -/
theorem Queue.head_ne_of_held {q : Queue} {j : Nat} (hj : j < q.count) :
    q.head ≠ q.tail + BitVec.ofNat 4 j := by
  unfold Queue.count at hj
  bv_omega

@[simp] theorem Queue.contents_length (q : Queue) : q.contents.length = q.count := by simp [Queue.contents]

/-- A push onto a queue with room is one more event held. -/
theorem Queue.count_push_of_room {q : Queue} (e : Event) (h : q.head + 1 ≠ q.tail) :
    (q.push e).count = q.count + 1 := by
  obtain ⟨hfull, -⟩ | ⟨-, hp⟩ := q.push_cases e
  · exact absurd hfull h
  · simp only [hp, Queue.count, Queue.slotWrite_tail]
    bv_omega

/-- A push onto a queue with room writes the slot at head and no other. -/
theorem Queue.slotRead_push_of_room {q : Queue} (e : Event) (h : q.head + 1 ≠ q.tail) (i : U4) :
    (q.push e).slotRead i = if q.head = i then e else q.slotRead i := by
  obtain ⟨hfull, -⟩ | ⟨-, hp⟩ := q.push_cases e
  · exact absurd hfull h
  · rw [hp]
    exact q.slotRead_slotWrite q.head i e

/-- A push onto a queue with room appends its event to the contents. -/
theorem Queue.contents_push_of_room {q : Queue} (e : Event) (h : q.head + 1 ≠ q.tail) :
    (q.push e).contents = q.contents ++ [e] := by
  simp only [Queue.contents, Queue.count_push_of_room e h, Queue.slotRead_push_of_room e h, q.push_tail,
    List.range_succ, List.map_append, List.map_cons, List.map_nil, q.tail_add_count, if_true]
  congr 1
  exact List.map_congr_left fun j hj => if_neg (Queue.head_ne_of_held (List.mem_range.1 hj))

/-- A queue that is not empty holds the event at tail, and after it what a pop leaves. -/
theorem Queue.contents_of_nonempty {q : Queue} (h : q.head ≠ q.tail) :
    q.contents = q.slotRead q.tail :: ({ q with tail := q.tail + 1 } : Queue).contents := by
  have hcount : q.count = ({ q with tail := q.tail + 1 } : Queue).count + 1 := by
    simp only [Queue.count]
    bv_omega
  have hnext : ∀ j, q.tail + BitVec.ofNat 4 (j + 1) = q.tail + 1 + BitVec.ofNat 4 j := by
    intro j
    bv_omega
  rw [Queue.contents, hcount, List.range_succ_eq_map, List.map_cons, List.map_map]
  simp only [Queue.contents, Function.comp_def, Nat.succ_eq_add_one, hnext, Queue.slotRead, BitVec.add_zero]

/-- Settles O13: the two cases of a push, told apart by whether 15 events are held. -/
theorem pushAppendsToTheContents : Obligations.PushAppendsToTheContents := by
  intro q e
  have hfull := q.head_succ_eq_tail_iff
  obtain ⟨hf, hp⟩ | ⟨hf, hp⟩ := q.push_cases e
  · have h15 := hfull.1 hf
    rw [hp]
    exact ⟨q.count_le_fifteen, fun hroom => absurd h15 hroom.ne, fun _ => ⟨rfl, rfl⟩⟩
  · refine ⟨q.count_le_fifteen, fun _ => ⟨Queue.contents_push_of_room e hf, ?_⟩, fun h15 => absurd (hfull.2 h15) hf⟩
    rw [hp]
    rfl

/-- Settles O14: the two cases of a pop, told apart by whether the contents are empty. -/
theorem popTakesTheOldest : Obligations.PopTakesTheOldest := by
  intro q
  rcases q.pop_cases with ⟨he, hp⟩ | ⟨hne, hp⟩
  · have hnil : q.contents = [] := List.eq_nil_of_length_eq_zero (by simpa using q.head_eq_tail_iff.1 he)
    exact ⟨fun _ => hp, fun e es h => absurd (hnil.symm.trans h) (by simp)⟩
  · have hcons := Queue.contents_of_nonempty hne
    refine ⟨fun h => absurd (hcons.symm.trans h) (by simp), fun e es h => ?_⟩
    obtain ⟨hfirst, hrest⟩ := List.cons.inj (hcons.symm.trans h)
    rw [hp]
    exact ⟨congrArg some hfirst, hrest, rfl, rfl⟩

end Sys2Proof.Machine

/-! What the consumer's step leaves behind, and the invariant under every move (10_state.md R47). -/

namespace Sys2Proof.Machine

/-! ## Handling one event -/

/-- `t` is `s` after handlers and transition rows have run: the queue, the decoder position, the control bits and the
capture buffer stand, and the parts of the invariant they write are kept. -/
structure HandledFrom (s t : State) : Prop where
  queue : t.queue = s.queue
  lastEnd : t.lastEnd = s.lastEnd
  ctl : t.ctl = s.ctl
  capture : t.capture = s.capture
  params : s.params.inRange → t.params.inRange
  window : s.fsm.windowKnown → t.fsm.windowKnown
  ra1 : s.ra1.aligned → t.ra1.aligned
  ra2 : s.ra2.aligned → t.ra2.aligned

/-- A rolling average that stays or takes one sample stays aligned. -/
theorem Rolling.aligned_of_push_or_eq {r r' : Rolling} (h : r' = r ∨ ∃ c, r' = r.push c) (hr : r.aligned) :
    r'.aligned := by
  obtain rfl | ⟨c, rfl⟩ := h
  · exact hr
  · exact Rolling.aligned_push hr c

/-- An input delivered to the state machine. -/
theorem AfterInput.handledFrom {x : Input} {s t : State} (h : AfterInput x s t) : HandledFrom s t := by
  obtain ⟨hqueue, hlast, hparams, hctl, -, hcapture, -, -⟩ := h.frame
  exact {
    queue := hqueue
    lastEnd := hlast
    ctl := hctl
    capture := hcapture
    params := fun hp => hparams ▸ hp
    window := fun _ => h.window
    ra1 := Rolling.aligned_of_push_or_eq h.ra1
    ra2 := Rolling.aligned_of_push_or_eq h.ra2 }

/-- Parameters written within their ranges. -/
theorem handledFrom_withParams {s : State} {p : Params} (hp : s.params.inRange → p.inRange) :
    HandledFrom s (s.withParams p) := ⟨rfl, rfl, rfl, rfl, hp, id, id, id⟩

/-- Handling after handling. -/
theorem HandledFrom.trans {s t u : State} (h : HandledFrom s t) (h' : HandledFrom t u) : HandledFrom s u where
  queue := h'.queue.trans h.queue
  lastEnd := h'.lastEnd.trans h.lastEnd
  ctl := h'.ctl.trans h.ctl
  capture := h'.capture.trans h.capture
  params := h'.params ∘ h.params
  window := h'.window ∘ h.window
  ra1 := h'.ra1 ∘ h.ra1
  ra2 := h'.ra2 ∘ h.ra2

/-- A signalled input is handled. -/
theorem signal_handledFrom {x : Input} {s t : State} (hr : s.ctl.halted = false) (h : signal x s = .next t) :
    HandledFrom s t := by
  obtain ⟨u, hu, hafter⟩ := signal_running hr x
  cases hu.symm.trans h
  exact hafter.handledFrom

/-- Parameter writes and then at most one input are handled. -/
theorem WritesThenSignals.handledFrom {ts : U32} {s t : State} {r : Result} (h : WritesThenSignals ts s r)
    (hr : s.ctl.halted = false) (hrt : r = .next t) : HandledFrom s t := by
  obtain ⟨p, hp, rfl | ⟨x, -, rfl⟩⟩ := h
  · cases hrt
    exact handledFrom_withParams hp
  · exact (handledFrom_withParams hp).trans (signal_handledFrom hr hrt)

/-- The state a transaction up to `stop` is decoded in: `d.last_end` moved, and the model's own marks and counter of
the capture buffer at some values (42_spi_decoder.md R110; log 4). -/
def State.decoding (s : State) (stop : U7) (torn : List TornByte) (draws : Nat) : State :=
  (s.withLastEnd stop).withCapture { s.capture with torn := torn, draws := draws }

/-- All a dispatched event can do: a transaction is handled once the position has moved, a radio event as it is
(41_event_queue.md R103). -/
theorem dispatchEvent_next {slot : U4} {e : Event} {s t : State}
    (h : dispatchEvent slot e s = .next t) (hr : s.ctl.halted = false) :
    (e.tag = .spiTransactionEnded ∧ ∃ torn draws, HandledFrom (s.decoding e.endOffset torn draws) t) ∨
      (e.tag ≠ .spiTransactionEnded ∧ HandledFrom s t) := by
  unfold dispatchEvent at h
  cases htag : e.tag with
  | spiTransactionEnded =>
    rw [htag] at h
    obtain ⟨b0, b1, draws, hrun⟩ := onTransaction_cases slot e.ts s.lastEnd e.endOffset s
    exact .inl ⟨rfl, _, draws, (exec_decodeTxn (s := s.decoding e.endOffset _ draws) hr _ _ b0 b1).handledFrom hr
      (hrun.symm.trans h)⟩
  | radioDone =>
    rw [htag] at h
    exact .inr ⟨nofun, signal_handledFrom hr h⟩
  | radioTimeout =>
    rw [htag] at h
    exact .inr ⟨nofun, signal_handledFrom hr h⟩

/-! ## Who writes which element, and where the decoder stands -/

/-- The consumer's step writes no head, slot or overflow flag. -/
theorem execConsumerStep_queue_frame {s t : State} (h : execConsumerStep s = .next t) :
    t.queue.head = s.queue.head ∧ t.queue.slot = s.queue.slot ∧ t.queue.overflow = s.queue.overflow := by
  obtain ⟨hr, ⟨-, rfl⟩ | ⟨-, -, rfl⟩ | ⟨-, -, hd⟩⟩ := execConsumerStep_next h
  · exact ⟨rfl, rfl, rfl⟩
  · exact ⟨rfl, rfl, rfl⟩
  · obtain ⟨-, torn, draws, hh⟩ | ⟨-, hh⟩ := dispatchEvent_next hd hr <;>
      exact hh.queue ▸ ⟨rfl, rfl, rfl⟩

/-- On the consumer's turn a step is its iteration. -/
theorem step_of_consumerTurn {s : State} {rest : List Move} (h : s.consumerTurn rest) :
    step s = execConsumerStep (s.withSchedule rest) := by
  obtain ⟨hs, rfl⟩ | hs := h
  · have hsame : s.withSchedule [] = s := by rw [← hs]; rfl
    rw [hsame]
    simp only [step, nextMove, hs, exec]
  · rw [step_of_schedule_cons hs]
    rfl

/-- Settles O24: a push writes only the queue and not its tail, the consumer's step no other part of the queue, and a
DMA write only the capture buffer. -/
theorem eachElementHasOneWritingAgent : Obligations.EachElementHasOneWritingAgent := by
  intro s t hst
  refine ⟨fun a w rest hs => ?_, fun rest hturn => ?_, fun o v rest hs => ?_⟩
  · rw [step_of_schedule_cons hs] at hst
    obtain ⟨e, -, rfl⟩ := presentEvent_next hst
    exact ⟨s.queue.push_tail e, rfl, rfl, rfl, rfl, rfl, rfl, rfl⟩
  · rw [step_of_consumerTurn hturn] at hst
    simpa using execConsumerStep_queue_frame hst
  · rw [step_of_schedule_cons hs] at hst
    cases hst
    exact ⟨rfl, rfl, rfl, rfl, rfl, rfl, rfl, rfl⟩

/-- Settles O27: the popped event is dispatched, and only a transaction moves the position before it is handled. -/
theorem decoderPositionMovesToTheEndOffset : Obligations.DecoderPositionMovesToTheEndOffset := by
  intro s t ⟨hr, hover, hne⟩ hst
  obtain ⟨-, ⟨ho, -⟩ | ⟨-, he, -⟩ | ⟨-, -, hd⟩⟩ := execConsumerStep_next hst
  · exact absurd (hover.symm.trans ho) (by decide)
  · exact absurd he hne
  · obtain ⟨hspi, torn, draws, hh⟩ | ⟨hradio, hh⟩ := dispatchEvent_next hd hr
    · exact ⟨fun _ => hh.lastEnd, fun hn => absurd hspi hn⟩
    · exact ⟨fun hspi => absurd hspi hradio, fun _ => hh.lastEnd⟩

/-! ## The invariant -/

/-- Every slot stands at an SPI event after reset (log 6). -/
theorem Queue.endOffsetsClear_reset : Queue.reset.endOffsetsClear := by
  intro e he hne
  have hslot : e = ⟨.spiTransactionEnded, 0, 0⟩ := by simpa [Queue.reset] using he
  exact absurd (congrArg Event.tag hslot) hne

/-- Settles O48, clause by clause. -/
theorem resetStateMeetsTheInvariant : Obligations.ResetStateMeetsTheInvariant where
  params := by decide
  endOffsets := Queue.endOffsetsClear_reset
  ra1 := fun _ => rfl
  ra2 := fun _ => rfl
  window := nofun
  haltOnOverflow := nofun
  latch := rfl
  memory := Memory.wf_nil

/-- A reset establishes the invariant from any state. -/
theorem resetBlock_inv (s : State) : (resetBlock s).Inv :=
  { resetStateMeetsTheInvariant with memory := Memory.wf_nil }

/-- The schedule is no part of the invariant. -/
theorem State.Inv.withSchedule {s : State} (h : s.Inv) (rest : List Move) : (s.withSchedule rest).Inv := { h with }

/-- A DMA write keeps the invariant. -/
theorem State.Inv.dmaWrite {s : State} (h : s.Inv) (o : U7) (v : Byte) : (s.dmaWrite o v).Inv :=
  { h with memory := dmaWrite_wf o v h.memory }

/-- A push never clears the overflow flag (41_event_queue.md R96). -/
theorem Queue.overflow_push {q : Queue} (e : Event) (h : q.overflow = true) : (q.push e).overflow = true := by
  obtain ⟨-, hp⟩ | ⟨-, hp⟩ := q.push_cases e <;> rw [hp]
  exact h

/-- A push of an event whose end offset is clear unless it is an SPI event keeps that clause. -/
theorem Queue.endOffsetsClear_push {q : Queue} {e : Event} (he : e.tag ≠ .spiTransactionEnded → e.endOffset = 0)
    (h : q.endOffsetsClear) : (q.push e).endOffsetsClear := by
  obtain ⟨-, hp⟩ | ⟨-, hp⟩ := q.push_cases e <;> rw [hp]
  · exact h
  · intro x hx
    obtain rfl | hx := Queue.mem_slotWrite hx
    · exact he
    · exact h x hx

/-- A producer's push keeps the invariant. -/
theorem State.Inv.push {s : State} (h : s.Inv) {e : Event} (he : e.tag ≠ .spiTransactionEnded → e.endOffset = 0) :
    (s.withQueue (s.queue.push e)).Inv :=
  { h with
    endOffsets := Queue.endOffsetsClear_push he h.endOffsets
    haltOnOverflow := fun hh => Queue.overflow_push e (h.haltOnOverflow hh) }

/-- Taking the front event off the queue keeps the invariant. -/
theorem State.Inv.takeFront {s : State} (h : s.Inv) :
    ((s.withQueue { s.queue with tail := s.queue.tail + 1 }).withPopped none).Inv := { h with latch := rfl }

/-- Moving the decoder position and the model's marks keeps the invariant. -/
theorem State.Inv.decoding {s : State} (h : s.Inv) (stop : U7) (torn : List TornByte) (draws : Nat) :
    (s.decoding stop torn draws).Inv := { h with }

/-- Handlers and transition rows keep the invariant. -/
theorem State.Inv.handled {s t : State} (h : s.Inv) (hh : HandledFrom s t) : t.Inv where
  params := hh.params h.params
  endOffsets := hh.queue ▸ h.endOffsets
  ra1 := hh.ra1 h.ra1
  ra2 := hh.ra2 h.ra2
  window := hh.window h.window
  haltOnOverflow := by
    rw [hh.ctl, hh.queue]
    exact h.haltOnOverflow
  latch := hh.ctl ▸ h.latch
  memory := hh.capture ▸ h.memory

/-- The consumer's iteration keeps the invariant: a halt comes with the overflow flag, an idle step leaves the latch
empty, and a popped event is handled. -/
theorem State.Inv.consumerStep {s t : State} (h : s.Inv) (hst : execConsumerStep s = .next t) : t.Inv := by
  obtain ⟨hr, ⟨ho, rfl⟩ | ⟨-, -, rfl⟩ | ⟨-, -, hd⟩⟩ := execConsumerStep_next hst
  · exact { h with haltOnOverflow := fun _ => ho }
  · exact { h with latch := rfl }
  · obtain ⟨-, torn, draws, hh⟩ | ⟨-, hh⟩ := dispatchEvent_next hd hr
    · exact (h.takeFront.decoding _ torn draws).handled hh
    · exact h.takeFront.handled hh

/-- Settles O49, by the four kinds of move. -/
theorem everyStepKeepsTheInvariant : Obligations.EveryStepKeepsTheInvariant := by
  intro s t hinv hst
  obtain ⟨rest, -, rfl⟩ | ⟨o, v, rest, -, rfl⟩ | ⟨a, w, rest, e, -, he, rfl⟩ | ⟨rest, -, hc⟩ := step_next hst
  · exact resetBlock_inv _
  · exact (hinv.withSchedule rest).dmaWrite o v
  · exact (hinv.withSchedule rest).push he
  · exact (hinv.withSchedule rest).consumerStep hc

end Sys2Proof.Machine

/-! Which moves change a byte of the capture buffer (20_memory.md R52, R53). -/

namespace Sys2Proof.Machine

/-- What keeps the whole capture buffer keeps its bytes. -/
theorem sameMemory_of_capture_eq {s t : State} (h : t.capture = s.capture) : SameMemory s t := fun o =>
  congrArg (Capture.byteAt · o) h

/-- The model's own marks and counter are no part of a byte (log 4). -/
theorem sameMemory_decoding (s : State) (stop : U7) (torn : List TornByte) (draws : Nat) :
    SameMemory s (s.decoding stop torn draws) := fun _ => rfl

/-- The consumer's iteration changes no byte: handlers and transition rows keep the whole buffer, and decoding a
transaction only its marks and counter. -/
theorem execConsumerStep_sameMemory {s t : State} (h : execConsumerStep s = .next t) : SameMemory s t := by
  obtain ⟨hr, ⟨-, rfl⟩ | ⟨-, -, rfl⟩ | ⟨-, -, hd⟩⟩ := execConsumerStep_next h
  · exact sameMemory_of_capture_eq rfl
  · exact sameMemory_of_capture_eq rfl
  · obtain ⟨-, torn, draws, hh⟩ | ⟨-, hh⟩ := dispatchEvent_next hd hr
    · intro o
      exact (sameMemory_of_capture_eq hh.capture o).trans (sameMemory_decoding _ _ torn draws o)
    · exact sameMemory_of_capture_eq hh.capture

/-- Settles O59: a DMA write by the read-after-write law of the buffer, and of the other three kinds of move a reset is
excluded, a push leaves the buffer alone, and the consumer's iteration keeps its bytes. -/
theorem captureBytesAreWrittenByTheDmaAlone : Obligations.CaptureBytesAreWrittenByTheDmaAlone := by
  refine fun s => ⟨fun o v rest hs => ?_, fun t hst hreset hdma => ?_⟩
  · have hread := byteAt_dmaWrite (s.withSchedule rest) o
    refine ⟨(s.withSchedule rest).dmaWrite o v, step_of_schedule_cons hs, ?_, fun a ha => ?_,
      rfl, rfl, rfl, rfl, rfl, rfl, rfl, rfl, rfl, rfl⟩
    · rw [hread, if_pos rfl]
    · rw [hread, if_neg ha.symm, State.withSchedule_capture]
  · obtain ⟨rest, hs, -⟩ | ⟨o, v, rest, hs, -⟩ | ⟨a, w, rest, e, -, -, rfl⟩ | ⟨rest, -, hc⟩ := step_next hst
    · exact absurd ⟨rest, hs⟩ hreset
    · exact absurd hs (hdma o v rest)
    · exact sameMemory_of_capture_eq rfl
    · have hkept : SameMemory (s.withSchedule rest) t := execConsumerStep_sameMemory hc
      exact hkept

end Sys2Proof.Machine

/-! The fields of the four encodings as numbers (30_encoding.md R71, R85, R88). -/

namespace Sys2Proof

/-! ## Event words -/

theorem eventTagField_toNat (w : EventWord) : (eventTagField w).toNat = w.toNat / 2 ^ 39 := by
  have hlt := w.isLt
  simp only [eventTagField, BitVec.extractLsb'_toNat, Nat.shiftRight_eq_div_pow]
  omega

theorem eventEndField_toNat (w : EventWord) : (eventEndField w).toNat = w.toNat / 2 ^ 32 % 2 ^ 7 := by
  simp only [eventEndField, BitVec.extractLsb'_toNat, Nat.shiftRight_eq_div_pow]

theorem eventTsField_toNat (w : EventWord) : (eventTsField w).toNat = w.toNat % 2 ^ 32 := by
  simp only [eventTsField, BitVec.extractLsb'_toNat, Nat.shiftRight_zero]

/-- Concatenated words as a number: the high one counts in units of the low one's width. -/
theorem toNat_append_eq_add {m n : Nat} (x : BitVec m) (y : BitVec n) :
    (x ++ y).toNat = x.toNat * 2 ^ n + y.toNat := by
  rw [BitVec.toNat_append, ← Nat.shiftLeft_add_eq_or_of_lt y.isLt, Nat.shiftLeft_eq]

theorem mkEventWord_toNat (tag : BitVec 2) (e : U7) (ts : U32) :
    (mkEventWord tag e ts).toNat = tag.toNat * 2 ^ 39 + e.toNat * 2 ^ 32 + ts.toNat := by
  simp only [mkEventWord, toNat_append_eq_add]
  omega

@[simp] theorem eventEndField_mkEventWord (tag : BitVec 2) (e : U7) (ts : U32) :
    eventEndField (mkEventWord tag e ts) = e := by
  have he := e.isLt
  have hts := ts.isLt
  apply BitVec.eq_of_toNat_eq
  rw [eventEndField_toNat, mkEventWord_toNat]
  omega

@[simp] theorem eventTsField_mkEventWord (tag : BitVec 2) (e : U7) (ts : U32) :
    eventTsField (mkEventWord tag e ts) = ts := by
  have hts := ts.isLt
  apply BitVec.eq_of_toNat_eq
  rw [eventTsField_toNat, mkEventWord_toNat]
  omega

/-- A word with the value of three fields is the word of those fields. -/
theorem eq_mkEventWord_of_toNat {w : EventWord} {tag : BitVec 2} {e : U7} {ts : U32}
    (h : w.toNat = tag.toNat * 2 ^ 39 + e.toNat * 2 ^ 32 + ts.toNat) : w = mkEventWord tag e ts :=
  BitVec.eq_of_toNat_eq (h.trans (mkEventWord_toNat tag e ts).symm)

/-! ## Command bytes -/

/-- The write flag is the byte's upper half. -/
theorem writeFlag_eq (b : Byte) : writeFlag b = decide (128 ≤ b.toNat) := by
  rw [writeFlag, ← BitVec.msb_eq_getLsbD_last b, BitVec.msb_eq_decide]

theorem addressField_eq_ofNat (b : Byte) : addressField b = BitVec.ofNat 7 b.toNat :=
  BitVec.eq_of_toNat_eq (by simp [addressField])

/-- Where the write flag is set, the address is what lies above 0x80. -/
theorem addressField_of_write {b : Byte} (h : 128 ≤ b.toNat) : addressField b = BitVec.ofNat 7 (b.toNat - 128) := by
  have hlt := b.isLt
  rw [addressField_eq_ofNat]
  apply BitVec.eq_of_toNat_eq
  simp only [BitVec.toNat_ofNat]
  omega

theorem writeCommand_toNat (a : U7) : (writeCommand a).toNat = 128 + a.toNat :=
  toNat_append_eq_add (1 : BitVec 1) a

theorem readCommand_toNat (a : U7) : (readCommand a).toNat = a.toNat :=
  (toNat_append_eq_add (0 : BitVec 1) a).trans (by simp)

/-! ## Keys -/

theorem keyStageField_toNat (k : Key) : (keyStageField k).toNat = k.toNat / 8 := by
  have hlt := k.isLt
  simp only [keyStageField, BitVec.extractLsb'_toNat, Nat.shiftRight_eq_div_pow]
  omega

theorem keyInputField_toNat (k : Key) : (keyInputField k).toNat = k.toNat % 8 := by
  simp [keyInputField]

theorem mkKey_toNat (st : Stage) (i : InputKind) : (mkKey st i).toNat = st.code.toNat * 8 + i.code.toNat :=
  toNat_append_eq_add _ _

theorem keyFields_mkKey (st : Stage) (i : InputKind) :
    keyStageField (mkKey st i) = st.code ∧ keyInputField (mkKey st i) = i.code := by
  have hk := mkKey_toNat st i
  have hi := i.code.isLt
  refine ⟨BitVec.eq_of_toNat_eq ?_, BitVec.eq_of_toNat_eq ?_⟩
  · rw [keyStageField_toNat]; omega
  · rw [keyInputField_toNat]; omega

@[simp] theorem Stage.ofCode_code (st : Stage) : Stage.ofCode st.code = some st := by cases st <;> rfl

@[simp] theorem InputKind.ofCode_code (i : InputKind) : InputKind.ofCode i.code = some i := by cases i <;> rfl

theorem InputKind.code_injective {i j : InputKind} (h : i.code = j.code) : i = j :=
  Option.some.inj (by rw [← InputKind.ofCode_code i, h, InputKind.ofCode_code])

/-- Only code 7 names no stage (R86). -/
theorem Stage.ofCode_eq_none_iff (c : BitVec 3) : Stage.ofCode c = none ↔ c.toNat = 7 := by revert c; decide

/-- Exactly the codes 5 to 7 name no input kind (R88). -/
theorem InputKind.ofCode_eq_none_iff (c : BitVec 3) : InputKind.ofCode c = none ↔ 5 ≤ c.toNat := by revert c; decide

/-- Every code up to 6 is a stage's. -/
theorem Stage.exists_code_eq {c : BitVec 3} (h : c.toNat ≤ 6) : ∃ st : Stage, st.code = c := by
  have hread : ∀ c : BitVec 3, ∀ st ∈ Stage.ofCode c, st.code = c := by decide
  cases hc : Stage.ofCode c with
  | none =>
    rw [Stage.ofCode_eq_none_iff] at hc
    omega
  | some st => exact ⟨st, hread c st hc⟩

/-- Every code up to 4 is an input kind's. -/
theorem InputKind.exists_code_eq {c : BitVec 3} (h : c.toNat ≤ 4) : ∃ i : InputKind, i.code = c := by
  have hread : ∀ c : BitVec 3, ∀ i ∈ InputKind.ofCode c, i.code = c := by decide
  cases hc : InputKind.ofCode c with
  | none =>
    rw [InputKind.ofCode_eq_none_iff] at hc
    omega
  | some i => exact ⟨i, hread c i hc⟩

/-- A key whose two codes are both in use is the key of a stage and an input kind. -/
theorem exists_eq_mkKey {k : Key} (hst : k.toNat / 8 ≤ 6) (hi : k.toNat % 8 ≤ 4) : ∃ st i, k = mkKey st i := by
  rw [← keyStageField_toNat] at hst
  rw [← keyInputField_toNat] at hi
  obtain ⟨st, hst⟩ := Stage.exists_code_eq hst
  obtain ⟨i, hi⟩ := InputKind.exists_code_eq hi
  refine ⟨st, i, BitVec.eq_of_toNat_eq ?_⟩
  rw [mkKey_toNat, hst, hi, keyStageField_toNat, keyInputField_toNat]
  omega

@[simp] theorem InputKind.kind_withOperands (i : InputKind) (ts : U32) (n : U7) : (i.withOperands ts n).kind = i := by
  cases i <;> rfl

@[simp] theorem InputKind.ts_withOperands (i : InputKind) (ts : U32) (n : U7) : (i.withOperands ts n).ts = ts := by
  cases i <;> rfl

/-- An input is its kind with its operands. -/
@[simp] theorem Input.withOperands_eta (x : Input) : x.kind.withOperands x.ts x.lengthOperand = x := by cases x <;> rfl

end Sys2Proof

/-! The decoder's answer for an event word (30_encoding.md R85). -/

namespace Sys2Proof

theorem decode_mkEventWord_spi (e : U7) (ts : U32) : decode (.event (mkEventWord 0 e ts)) = .ok (.pushSpi e ts) := by
  simp [decode, decodeEvent, Laws.EncodesLegally.tag_mkEventWord]

theorem decode_mkEventWord_done (e : U7) (ts : U32) : decode (.event (mkEventWord 1 e ts)) = .ok (.pushDone ts) := by
  simp [decode, decodeEvent, Laws.EncodesLegally.tag_mkEventWord]

theorem decode_mkEventWord_timeout (e : U7) (ts : U32) :
    decode (.event (mkEventWord 2 e ts)) = .ok (.pushTimeout ts) := by
  simp [decode, decodeEvent, Laws.EncodesLegally.tag_mkEventWord]

/-- From 3 * 2^39 up the tag is 11, which no producer pushes (R85). -/
theorem decode_event_of_tag3 {w : EventWord} (h : 3 * 2 ^ 39 ≤ w.toNat) :
    decode (.event w) = .error .eventTag3 := by
  have htag : eventTagField w = 3 := BitVec.eq_of_toNat_eq (by
    have hlt := w.isLt
    have hthree : (3 : BitVec 2).toNat = 3 := rfl
    rw [eventTagField_toNat]
    omega)
  simp [decode, decodeEvent, htag]

/-- Settles O6: a value with tag 0, 1 or 2 is that of the word of its three fields, and the tag selects the push. -/
theorem eventWordFieldsDecode : Obligations.EventWordFieldsDecode := by
  refine fun w e ts => ⟨fun h => ?_, fun h => ?_, fun h => ?_, decode_event_of_tag3⟩
  · obtain rfl : w = mkEventWord 0 e ts := eq_mkEventWord_of_toNat (by simpa using h)
    exact decode_mkEventWord_spi e ts
  · obtain rfl : w = mkEventWord 1 e ts := eq_mkEventWord_of_toNat (by simpa using h)
    exact decode_mkEventWord_done e ts
  · obtain rfl : w = mkEventWord 2 e ts := eq_mkEventWord_of_toNat (by simpa using h)
    exact decode_mkEventWord_timeout e ts

end Sys2Proof

/-! The decoder's answer for a transaction: its form, and the handler of a two-byte write (30_encoding.md R73, R75). -/

namespace Sys2Proof

/-! ## The five forms -/

theorem decodeTxn_of_empty {len : U7} (h : len.toNat = 0) (ts : U32) (b0 b1 : Byte) :
    decodeTxn ts len b0 b1 = .spiEmpty := by
  obtain rfl : len = 0 := BitVec.eq_of_toNat_eq h
  rfl

theorem decodeTxn_of_zeroByte {len : U7} {b0 : Byte} (hlen : 1 ≤ len.toNat) (h0 : b0.toNat = 0) (ts : U32)
    (b1 : Byte) : decodeTxn ts len b0 b1 = .fifoRead ts (BitVec.ofNat 7 (len.toNat - 1)) := by
  obtain rfl : b0 = 0 := BitVec.eq_of_toNat_eq h0
  have hne : len ≠ 0 := fun h => by simp [h] at hlen
  have hpred : len - 1 = BitVec.ofNat 7 (len.toNat - 1) := by bv_omega
  rw [decodeTxn, if_neg hne, if_pos rfl, hpred]

/-- From 0x80 up the length alone tells a register write from a write of bad length. -/
theorem decodeTxn_of_writeFlag {len : U7} {b0 : Byte} (hlen : 1 ≤ len.toNat) (h0 : 128 ≤ b0.toNat) (ts : U32)
    (b1 : Byte) : decodeTxn ts len b0 b1 =
      if len.toNat = 2 then decodeWrite ts (BitVec.ofNat 7 (b0.toNat - 128)) b1
      else .regWriteBadlen (BitVec.ofNat 7 (b0.toNat - 128)) len := by
  have hne : len ≠ 0 := fun h => by simp [h] at hlen
  have hb : b0 ≠ 0 := fun h => by simp [h] at h0
  have htwo : len = 2 ↔ len.toNat = 2 := by bv_omega
  have hflag : writeFlag b0 = true := by simpa [writeFlag_eq] using h0
  simp only [decodeTxn, if_neg hne, if_neg hb, if_pos hflag, htwo, addressField_of_write h0]

theorem decodeTxn_of_readFlag {len : U7} {b0 : Byte} (hlen : 1 ≤ len.toNat) (h0 : 1 ≤ b0.toNat)
    (h1 : b0.toNat < 128) (ts : U32) (b1 : Byte) : decodeTxn ts len b0 b1 = .regRead (BitVec.ofNat 7 b0.toNat) len := by
  have hne : len ≠ 0 := fun h => by simp [h] at hlen
  have hb : b0 ≠ 0 := fun h => by simp [h] at h0
  have hflag : ¬ writeFlag b0 = true := by simpa [writeFlag_eq] using h1
  rw [decodeTxn, if_neg hne, if_neg hb, if_neg hflag, addressField_eq_ofNat]

/-- The conditions of the five forms are disjoint and leave no length and first byte out (R73). -/
theorem one_form_condition (len b : Nat) :
    [decide (len = 0), decide (1 ≤ len ∧ b = 0), decide (len = 2 ∧ 128 ≤ b), decide (1 ≤ len ∧ len ≠ 2 ∧ 128 ≤ b),
      decide (1 ≤ len ∧ 1 ≤ b ∧ b < 128)].count true = 1 := by
  simp only [List.count_cons, List.count_nil, beq_iff_eq, decide_eq_true_eq]
  split_ifs <;> omega

/-- Settles O3: an equation for each form, and the count of the conditions that hold. -/
theorem transactionFormsByLengthAndFirstByte : Obligations.TransactionFormsByLengthAndFirstByte := by
  refine fun ts len b0 b1 => ⟨fun h => decodeTxn_of_empty h ts b0 b1,
    fun hlen h0 => decodeTxn_of_zeroByte hlen h0 ts b1, fun hlen h0 => ?_, fun hlen hne h0 => ?_,
    fun hlen h0 h1 => decodeTxn_of_readFlag hlen h0 h1 ts b1, one_form_condition len.toNat b0.toNat⟩
  · rw [decodeTxn_of_writeFlag (by omega) h0, if_pos hlen]
  · rw [decodeTxn_of_writeFlag hlen h0, if_neg hne]

/-! ## Two-byte writes -/

/-- A two-byte transaction from 0x80 up is a register write to the low seven bits of its first byte. -/
theorem decode_twoByteWrite {b : Byte} (h : 128 ≤ b.toNat) (ts : U32) (v : Byte) :
    decode (.txn ts [b, v]) = .ok (decodeWrite ts (BitVec.ofNat 7 (b.toNat - 128)) v) :=
  calc decode (.txn ts [b, v])
    _ = .ok (decodeTxn ts 2 b v) := congrArg Except.ok (decodeBytes_short (by simp) ts)
    _ = .ok (decodeWrite ts (BitVec.ofNat 7 (b.toNat - 128)) v) := by
      rw [decodeTxn_of_writeFlag (by decide) h, if_pos (by rfl)]

/-- An address without a handler of its own reaches WR_OTHER. -/
theorem decodeWrite_of_not_handled {a : U7} (h : a ∉ handledAddresses) (ts : U32) (v : Byte) :
    decodeWrite ts a v = .wrOther a v := by
  simp only [handledAddresses, List.mem_cons, List.not_mem_nil, or_false, not_or] at h
  simp only [decodeWrite, h, if_false]

/-- No write command but the eight of R75 names a handled address. -/
theorem not_handled_of_firstByte : ∀ b : Byte, 128 ≤ b.toNat →
    b ∉ ([0x81, 0x9D, 0x9E, 0x9F, 0xA0, 0xA1, 0xA2, 0xA6] : List Byte) →
    BitVec.ofNat 7 (b.toNat - 128) ∉ handledAddresses := by
  decide

/-- Settles O4: each of the eight first bytes is a write to the address 0x80 below it, and from 0x80 up no other first
byte names a handled address. -/
theorem twoByteWritesReachTheirHandlers : Obligations.TwoByteWritesReachTheirHandlers := by
  intro ts v b
  have hwrite := fun (b : Byte) (hb : 128 ≤ b.toNat) => decode_twoByteWrite hb ts v
  refine ⟨hwrite 0x81 (by decide), hwrite 0x9D (by decide), hwrite 0x9E (by decide), hwrite 0x9F (by decide),
    hwrite 0xA0 (by decide), hwrite 0xA1 (by decide), hwrite 0xA2 (by decide), hwrite 0xA6 (by decide),
    fun hb hother => ?_⟩
  rw [hwrite b hb, decodeWrite_of_not_handled (not_handled_of_firstByte b hb hother)]

end Sys2Proof

/-! The decoder's answer for a key (30_encoding.md R88, R92, 44_timing_fsm.md R137). -/

namespace Sys2Proof

/-- The key of a stage and an input kind selects the row of that pair. -/
theorem decode_mkKey {n : U7} (hn : n.toNat ≤ 126) (st : Stage) (i : InputKind) (ts : U32) :
    decode (.key (mkKey st i) ts n) = .ok (selectRow st (i.withOperands ts n)) := by
  obtain ⟨hst, hi⟩ := keyFields_mkKey st i
  have hne : n ≠ 127 := Laws.EncodesLegally.ne_127 hn
  simp only [decode, decodeKey, hst, hi, Stage.ofCode_code, InputKind.ofCode_code, hne, and_false, if_false]

/-- Code 7 is rejected by name whatever the input code (R86, R92). -/
theorem decode_key_of_stageCode {k : Key} (h : k.toNat / 8 = 7) (ts : U32) (n : U7) :
    decode (.key k ts n) = .error .stageCode7 := by
  have hst : Stage.ofCode (keyStageField k) = none := by rw [Stage.ofCode_eq_none_iff, keyStageField_toNat, h]
  simp only [decode, decodeKey, hst]

/-- An input code above 4 is rejected by name in every stage (R88, R92). -/
theorem decode_key_of_inputCode {k : Key} (hst : k.toNat / 8 ≤ 6) (hi : 5 ≤ k.toNat % 8) (ts : U32) (n : U7) :
    decode (.key k ts n) = .error .inputCode := by
  rw [← keyStageField_toNat] at hst
  rw [← keyInputField_toNat, ← InputKind.ofCode_eq_none_iff] at hi
  obtain ⟨st, hst⟩ := Stage.exists_code_eq hst
  simp only [decode, decodeKey, ← hst, Stage.ofCode_code, hi]

/-- The keys of the pairs the table lists are the nine of R137. -/
theorem mkKey_mem_of_hasTransition {st : Stage} {i : InputKind} (h : hasTransition st i = true) :
    mkKey st i ∈ ([0b000000, 0b001010, 0b010001, 0b011010, 0b011011, 0b100001, 0b101010, 0b101011, 0b110100] :
      List Key) := by
  revert h
  cases st <;> cases i <;> decide

/-- A key of no listed pair decodes to the catch-all, with its stage and its input. -/
theorem decode_mkKey_outOfSync {n : U7} (hn : n.toNat ≤ 126) {st : Stage} {i : InputKind}
    (h : hasTransition st i = false) (ts : U32) :
    decode (.key (mkKey st i) ts n) = .ok (.outOfSync st (i.withOperands ts n)) := by
  rw [decode_mkKey hn, Machine.selectRow_of_not_hasTransition (by simpa using h)]

/-- Settles O5: a key with both codes in use is the key of a pair, which selects the pair's row; the other keys have a
code that names nothing. -/
theorem keysSelectTheTransitionTable : Obligations.KeysSelectTheTransitionTable := by
  intro k ts n hn
  have hrow := fun st i => decode_mkKey hn st i ts
  refine ⟨?_, ?_, ?_, ?_, ?_, ?_, ?_, ?_, ?_, fun hst hi hk => ?_, fun h => decode_key_of_stageCode h ts n,
    fun hst hi => decode_key_of_inputCode hst hi ts n⟩
  · rintro rfl; exact hrow .idle .txStart
  · rintro rfl; exact hrow .transmitting .done
  · rintro rfl; exact hrow .beforeRx1 .rxStart
  · rintro rfl; exact hrow .inRx1 .done
  · rintro rfl; exact hrow .inRx1 .timeout
  · rintro rfl; exact hrow .beforeRx2 .rxStart
  · rintro rfl; exact hrow .inRx2 .done
  · rintro rfl; exact hrow .inRx2 .timeout
  · rintro rfl; exact hrow .awaitingData .fifoLen
  · obtain ⟨st, i, rfl⟩ := exists_eq_mkKey hst hi
    have hlisted : hasTransition st i = false :=
      Bool.eq_false_iff.2 fun h => hk (mkKey_mem_of_hasTransition h)
    have hi := i.code.isLt
    have hnum := mkKey_toNat st i
    refine ⟨st, i.withOperands ts n, decode_mkKey_outOfSync hn hlisted ts, by omega, ?_, by simp, fun h4 => ?_⟩
    · rw [InputKind.kind_withOperands]
      omega
    · have hcode : i.code = InputKind.fifoLen.code := BitVec.eq_of_toNat_eq (by
        have hfour : InputKind.fifoLen.code.toNat = 4 := rfl
        omega)
      rw [InputKind.code_injective hcode]
      rfl

end Sys2Proof

/-! Whatever decodes is well-formed, and a transaction of any length decodes (30_encoding.md R73, R89, R94). -/

namespace Sys2Proof

/-! ## The bytes that count -/

/-- Whole rounds of 128 bytes before a transaction below 128 bytes have been written over (R89; log 25). -/
theorem seenBytes_append {early late : List Byte} (hearly : early.length % 128 = 0) (hlate : late.length < 128) :
    seenBytes (early ++ late) = late := by
  have hdrop : (early ++ late).length / 128 * 128 = early.length := by
    rw [List.length_append]
    omega
  rw [seenBytes, hdrop, List.drop_left]

theorem decode_append {early late : List Byte} (hearly : early.length % 128 = 0) (hlate : late.length < 128)
    (ts : U32) : decode (.txn ts (early ++ late)) = decode (.txn ts late) := by
  simp only [decode, decodeBytes, seenBytes_append hearly hlate, seenBytes_short hlate]

/-- A length that is a multiple of 128 is seen as 0. -/
theorem decode_of_length_mod {bytes : List Byte} (h : bytes.length % 128 = 0) (ts : U32) :
    decode (.txn ts bytes) = .ok .spiEmpty :=
  congrArg Except.ok (decodeTxn_of_empty (by simp [h]) ts _ _)

/-! ## Side conditions -/

theorem decodeWrite_wellFormed (ts : U32) (a : U7) (v : Byte) : (decodeWrite ts a v).wellFormed = true := by
  by_cases ha : a ∈ handledAddresses
  · revert a
    simp [handledAddresses, decodeWrite, Instr.wellFormed]
  · simpa [decodeWrite_of_not_handled ha, Instr.wellFormed] using ha

/-- Each form of a transaction meets its length condition. -/
theorem decodeTxn_wellFormed (ts : U32) (len : U7) (b0 b1 : Byte) : (decodeTxn ts len b0 b1).wellFormed = true := by
  have hlt := len.isLt
  by_cases hempty : len.toNat = 0
  · rw [decodeTxn_of_empty hempty]
    rfl
  have hlen : 1 ≤ len.toNat := by omega
  by_cases hzero : b0.toNat = 0
  · rw [decodeTxn_of_zeroByte hlen hzero]
    simp only [Instr.wellFormed, BitVec.toNat_ofNat, decide_eq_true_eq]
    omega
  by_cases hwrite : 128 ≤ b0.toNat
  · rw [decodeTxn_of_writeFlag hlen hwrite]
    split_ifs with htwo
    · exact decodeWrite_wellFormed _ _ _
    · simp [Instr.wellFormed, hempty, htwo]
  · rw [decodeTxn_of_readFlag hlen (by omega) (by omega)]
    simp only [Instr.wellFormed, BitVec.toNat_ofNat, Bool.and_eq_true, decide_eq_true_eq]
    omega

/-- A selected row asks no more of its operands than the input does: the catch-all is selected for unlisted pairs
only. -/
theorem selectRow_wellFormed {x : Input} (h : x.wellFormed = true) (st : Stage) :
    (selectRow st x).wellFormed = true := by
  cases st <;> cases x <;> exact h

theorem withOperands_wellFormed {i : InputKind} {n : U7} (h : ¬ (i = .fifoLen ∧ n = 127)) (ts : U32) :
    (i.withOperands ts n).wellFormed = true := by
  cases i with
  | fifoLen =>
    have hn : n ≠ 127 := fun hn => h ⟨rfl, hn⟩
    simp only [InputKind.withOperands, Input.wellFormed, decide_eq_true_eq]
    bv_omega
  | _ => rfl

theorem decodeEvent_wellFormed {w : EventWord} {i : Instr} (h : decodeEvent w = .ok i) : i.wellFormed = true := by
  unfold decodeEvent at h
  split_ifs at h <;> cases h <;> rfl

theorem decodeKey_wellFormed {k : Key} {ts : U32} {n : U7} {i : Instr} (h : decodeKey k ts n = .ok i) :
    i.wellFormed = true := by
  unfold decodeKey at h
  split at h
  · cases h
  · cases h
  · split_ifs at h with hlength
    cases h
    exact selectRow_wellFormed (withOperands_wellFormed hlength ts) _

theorem decode_wellFormed {e : Encoded} {i : Instr} (h : decode e = .ok i) : i.wellFormed = true := by
  cases e with
  | event w => exact decodeEvent_wellFormed h
  | txn ts bytes =>
    cases h
    exact decodeTxn_wellFormed _ _ _ _
  | key k ts n => exact decodeKey_wellFormed h
  | internal op => cases op <;> cases h <;> rfl

/-- Settles O2: the decoder of transactions has no error branch, it reads the length modulo 128 and the bytes past the
last whole round, and each encoding space gives well-formed operations. -/
theorem decodedOperationsAreWellFormed : Obligations.DecodedOperationsAreWellFormed :=
  ⟨fun ts bytes => ⟨decodeBytes ts bytes, rfl⟩, fun ts _ h => decode_of_length_mod h ts,
    fun ts _ _ hearly hlate => decode_append hearly hlate ts, fun _ _ h => decode_wellFormed h⟩

end Sys2Proof

/-! The decoder undoes the encoder (30_encoding.md R73, R74, R75, R85, R88). -/

namespace Sys2Proof

/-! ## Transactions -/

/-- A transaction of `len` bytes, zero after the first, is decoded by its length and first byte. -/
theorem decode_paddedTxn {len : U7} (h : 1 ≤ len.toNat) (ts : U32) (b : Byte) :
    decode (.txn ts (b :: List.replicate (len.toNat - 1) 0)) = .ok (decodeTxn ts len b 0) := by
  have hlt := len.isLt
  have hlength : (b :: List.replicate (len.toNat - 1) 0).length = len.toNat := by
    rw [List.length_cons, List.length_replicate]
    omega
  have hsecond : (b :: List.replicate (len.toNat - 1) 0).getD 1 0 = 0 := by
    cases len.toNat - 1 <;> rfl
  rw [decode, decodeBytes_short (by omega), hlength, hsecond, BitVec.ofNat_toNat, BitVec.setWidth_eq,
    List.getD_cons_zero]

theorem decode_encode_fifoRead {n : U7} (h : n.toNat ≤ 126) (ts : U32) :
    decode (encode (.fifoRead ts n)) = .ok (.fifoRead ts n) := by
  have hsucc : (n + 1).toNat = n.toNat + 1 := by bv_omega
  calc decode (encode (.fifoRead ts n))
    _ = decode (.txn ts (0x00 :: List.replicate ((n + 1).toNat - 1) 0)) := by rw [hsucc]; rfl
    _ = .ok (decodeTxn ts (n + 1) 0x00 0) := decode_paddedTxn (by omega) ts _
    _ = .ok (.fifoRead ts n) := by rw [decodeTxn_of_zeroByte (by omega) rfl, hsucc]; simp

theorem decode_encode_regWriteBadlen (a : U7) {len : U7} (hzero : len.toNat ≠ 0) (htwo : len.toNat ≠ 2) :
    decode (encode (.regWriteBadlen a len)) = .ok (.regWriteBadlen a len) := by
  have hlen : 1 ≤ len.toNat := by omega
  have hcmd := writeCommand_toNat a
  rw [encode, decode_paddedTxn hlen, decodeTxn_of_writeFlag hlen (by omega), if_neg htwo, hcmd]
  simp

theorem decode_encode_regRead {a len : U7} (ha : a.toNat ≠ 0) (hlen : len.toNat ≠ 0) :
    decode (encode (.regRead a len)) = .ok (.regRead a len) := by
  have hlt := a.isLt
  have hcmd := readCommand_toNat a
  rw [encode, decode_paddedTxn (by omega), decodeTxn_of_readFlag (by omega) (by omega) (by omega), hcmd]
  simp

/-- A register write reaches the row of its address. -/
theorem decode_encodeWrite (ts : U32) (a : U7) (v : Byte) :
    decode (encodeWrite ts a v) = .ok (decodeWrite ts a v) := by
  have hcmd := writeCommand_toNat a
  rw [encodeWrite, decode_twoByteWrite (by omega), hcmd]
  simp

/-! ## Keys -/

/-- A pair's key with its input's operands reaches the pair's row. -/
theorem decode_encodeRow {x : Input} (h : x.wellFormed = true) (st : Stage) :
    decode (encodeRow st x) = .ok (selectRow st x) := by
  have hn : x.lengthOperand.toNat ≤ 126 := by
    cases x with
    | fifoLen ts n => simpa [Input.wellFormed, Input.lengthOperand] using h
    | _ => simp [Input.lengthOperand]
  rw [encodeRow, decode_mkKey hn, Input.withOperands_eta]

theorem decode_encode_outOfSync {st : Stage} {x : Input} (hpair : hasTransition st x.kind = false)
    (hx : x.wellFormed = true) : decode (encode (.outOfSync st x)) = .ok (.outOfSync st x) := by
  rw [encode, decode_encodeRow hx, Machine.selectRow_of_not_hasTransition hpair]

/-! ## Every operation -/

/-- Settles O1: row by row, through the decoder's answer for the space the row is encoded in. -/
theorem decodeEncodeRoundTrip : Obligations.DecodeEncodeRoundTrip := by
  intro i h
  cases i with
  | pushSpi e ts => exact decode_mkEventWord_spi e ts
  | pushDone ts => exact decode_mkEventWord_done 0 ts
  | pushTimeout ts => exact decode_mkEventWord_timeout 0 ts
  | pop => rfl
  | overflowCheck => rfl
  | consumerStep => rfl
  | spiEmpty => rfl
  | fifoRead ts n => exact decode_encode_fifoRead (by simpa [Instr.wellFormed] using h) ts
  | regWriteBadlen a len =>
    obtain ⟨hzero, htwo⟩ : len.toNat ≠ 0 ∧ len.toNat ≠ 2 := by simpa [Instr.wellFormed] using h
    exact decode_encode_regWriteBadlen a hzero htwo
  | regRead a len =>
    obtain ⟨ha, hlen⟩ : a.toNat ≠ 0 ∧ len.toNat ≠ 0 := by simpa [Instr.wellFormed] using h
    exact decode_encode_regRead ha hlen
  | wrOpmode ts v => exact decode_encodeWrite ts _ v
  | wrModemconfig1 v | wrModemconfig2 v | wrSymbtimeoutlsb v | wrPreamblemsb v | wrPreamblelsb v
  | wrPayloadlength v | wrModemconfig3 v => exact decode_encodeWrite 0 _ v
  | wrOther a v =>
    have ha : a ∉ handledAddresses := by simpa [Instr.wellFormed] using h
    rw [encode, decode_encodeWrite, decodeWrite_of_not_handled ha]
  | tIdleTx ts | tTxDone ts | tBrx1Rx ts | tRx1Done ts | tRx1Tmo ts | tBrx2Rx ts | tRx2Done ts | tRx2Tmo ts =>
    exact decode_encodeRow rfl _
  | tData ts n => exact decode_encodeRow (x := .fifoLen ts n) h _
  | outOfSync st x =>
    obtain ⟨hpair, hx⟩ : hasTransition st x.kind = false ∧ x.wellFormed = true := by
      simpa [Instr.wellFormed] using h
    exact decode_encode_outOfSync hpair hx

end Sys2Proof

/-! Histories of pushes and pops on the queue (41_event_queue.md R96–R99, R104, R105). -/

namespace Sys2Proof.Machine

/-! ## One push, one pop -/

/-- An index advances modulo 16 (10_state.md R22). -/
theorem toNat_succ_u4 (i : U4) : (i + 1).toNat = (i.toNat + 1) % 16 := BitVec.toNat_add i 1

/-- The index after head is tail, read as numbers (41_event_queue.md R95). -/
theorem Queue.head_succ_eq_tail_iff_toNat (q : Queue) :
    q.head + 1 = q.tail ↔ (q.head.toNat + 1) % 16 = q.tail.toNat := by
  rw [← BitVec.toNat_inj, toNat_succ_u4]

/-- A push onto a full queue sets the flag and nothing else. -/
theorem Queue.push_of_full {q : Queue} (e : Event) (h : q.head + 1 = q.tail) :
    q.push e = { q with overflow := true } := by
  obtain ⟨-, hp⟩ | ⟨hroom, -⟩ := q.push_cases e
  · exact hp
  · exact absurd h hroom

/-- A push onto a queue with room writes the slot at head and advances head. -/
theorem Queue.push_of_room {q : Queue} (e : Event) (h : q.head + 1 ≠ q.tail) :
    q.push e = { q.slotWrite q.head e with head := q.head + 1 } := by
  obtain ⟨hfull, -⟩ | ⟨-, hp⟩ := q.push_cases e
  · exact absurd hfull h
  · exact hp

/-- The flag is sticky: a push after which it is clear had room and found it clear. -/
theorem Queue.room_of_push_overflow_false {q : Queue} {e : Event} (h : (q.push e).overflow = false) :
    q.head + 1 ≠ q.tail ∧ q.overflow = false := by
  obtain ⟨-, hp⟩ | ⟨hroom, hp⟩ := q.push_cases e <;> rw [hp] at h
  · cases h
  · exact ⟨hroom, h⟩

/-- A queue with head at tail holds nothing. -/
theorem Queue.contents_of_empty {q : Queue} (h : q.head = q.tail) : q.contents = [] :=
  List.eq_nil_of_length_eq_zero (q.contents_length.trans (q.head_eq_tail_iff.1 h))

/-- A pop splits the contents into its result and what it leaves. -/
theorem Queue.contents_eq_pop_append (q : Queue) : q.contents = q.pop.1.toList ++ q.pop.2.contents := by
  obtain ⟨-, hp⟩ | ⟨hne, hp⟩ := q.pop_cases <;> rw [hp]
  · rfl
  · exact Queue.contents_of_nonempty hne

/-- `i` is the push operation of the event record `e` (41_event_queue.md R97, R98, R99). -/
def PushesEvent (i : Instr) (e : Event) : Prop :=
  (∃ o ts, i = .pushSpi o ts ∧ e = ⟨.spiTransactionEnded, o, ts⟩) ∨
    (∃ ts, i = .pushDone ts ∧ e = ⟨.radioDone, 0, ts⟩) ∨
    (∃ ts, i = .pushTimeout ts ∧ e = ⟨.radioTimeout, 0, ts⟩)

/-- The three pushes are the queue's push of their event (R97, R98, R99). -/
theorem PushesEvent.exec_eq {i : Instr} {e : Event} (h : PushesEvent i e) (s : State) :
    exec i s = .next (s.withQueue (s.queue.push e)) := by
  obtain ⟨o, ts, rfl, rfl⟩ | ⟨ts, rfl, rfl⟩ | ⟨ts, rfl, rfl⟩ := h <;> rfl

/-- The three pushes raise OVERFLOW on a full queue, and nothing else (60_exceptions.md R179). -/
theorem PushesEvent.errorRaised_eq {i : Instr} {e : Event} (h : PushesEvent i e) (s : State) :
    errorRaised i s = if s.queue.head + 1 = s.queue.tail then some .overflow else none := by
  obtain ⟨o, ts, rfl, rfl⟩ | ⟨ts, rfl, rfl⟩ | ⟨ts, rfl, rfl⟩ := h <;> simp only [errorRaised, Queue.full, beq_iff_eq]

/-- Replacing the queue changes nothing else. -/
theorem onlyQueue_withQueue (s : State) (q : Queue) : OnlyQueue s (s.withQueue q) :=
  ⟨rfl, rfl, rfl, rfl, rfl, rfl, rfl, sameMemory_of_capture_eq rfl, rfl, rfl, rfl⟩

/-- Settles O12: the two cases of the queue's push, told apart by whether the index after head is tail. -/
theorem pushWritesTheNextSlotOrOverflows : Obligations.PushWritesTheNextSlotOrOverflows := by
  intro s i e (hpush : PushesEvent i e)
  refine ⟨_, hpush.exec_eq s, onlyQueue_withQueue s _, fun hroom => ?_, fun hfull => ?_⟩
  · have hroom : s.queue.head + 1 ≠ s.queue.tail := mt s.queue.head_succ_eq_tail_iff_toNat.1 hroom
    have hslot := Queue.slotRead_push_of_room e hroom
    refine ⟨(hslot _).trans (if_pos rfl), fun j hj => (hslot j).trans (if_neg hj.symm), ?_⟩
    rw [hpush.errorRaised_eq, if_neg hroom, State.withQueue_queue, Queue.push_of_room e hroom]
    exact ⟨toNat_succ_u4 _, rfl, rfl, rfl⟩
  · have hfull := s.queue.head_succ_eq_tail_iff_toNat.2 hfull
    rw [hpush.errorRaised_eq, if_pos hfull, Queue.push_of_full e hfull]
    exact ⟨rfl, rfl, rfl, fun _ => rfl, rfl⟩

/-! ## Histories -/

/-- The flag is sticky along a history: clear at its end, it was clear from the start. -/
theorem overflow_false_of_runQueue {q : Queue} {ops : List QueueOp} (h : (runQueue q ops).2.overflow = false) :
    q.overflow = false := by
  induction ops generalizing q with
  | nil => exact h
  | cons op ops ih =>
    cases op with
    | push e => exact (Queue.room_of_push_overflow_false (ih h)).2
    | pop => exact q.pop_frame.2.2.symm.trans (ih h)

/-- Settles O15, by induction on the history: with the flag clear at the end every push had room, so it appends its
event; and every pop takes the first of the contents. -/
theorem eventsArePoppedInPushOrder : Obligations.EventsArePoppedInPushOrder := by
  intro q ops _ hend
  induction ops generalizing q with
  | nil => exact List.append_nil _
  | cons op ops ih =>
    cases op with
    | push e =>
      have hend : (runQueue (q.push e) ops).2.overflow = false := hend
      have hpushed := overflow_false_of_runQueue hend
      obtain ⟨hroom, -⟩ := Queue.room_of_push_overflow_false hpushed
      calc q.contents ++ e :: pushedEvents ops
        _ = (q.push e).contents ++ pushedEvents ops := by rw [Queue.contents_push_of_room e hroom, List.append_cons]
        _ = (runQueue (q.push e) ops).1 ++ (runQueue (q.push e) ops).2.contents := ih _ hpushed hend
    | pop =>
      have hend : (runQueue q.pop.2 ops).2.overflow = false := hend
      calc q.contents ++ pushedEvents ops
        _ = q.pop.1.toList ++ (q.pop.2.contents ++ pushedEvents ops) := by
          rw [q.contents_eq_pop_append, List.append_assoc]
        _ = q.pop.1.toList ++ (runQueue q.pop.2 ops).1 ++ (runQueue q.pop.2 ops).2.contents := by
          rw [ih _ (overflow_false_of_runQueue hend) hend, List.append_assoc]

/-- Pushes that fit append their events in order and leave the flag. -/
theorem Queue.foldl_push_of_room {q : Queue} {es : List Event} (h : q.count + es.length ≤ 15) :
    (es.foldl Queue.push q).contents = q.contents ++ es ∧ (es.foldl Queue.push q).overflow = q.overflow := by
  induction es generalizing q with
  | nil => exact ⟨(List.append_nil _).symm, rfl⟩
  | cons e es ih =>
    rw [List.length_cons] at h
    have hroom : q.head + 1 ≠ q.tail := fun hfull => by
      have := q.head_succ_eq_tail_iff.1 hfull
      omega
    have hfits : (q.push e).count + es.length ≤ 15 := by
      rw [Queue.count_push_of_room e hroom]
      omega
    obtain ⟨hcontents, hoverflow⟩ := ih hfits
    refine ⟨?_, ?_⟩
    · rw [List.foldl_cons, hcontents, Queue.contents_push_of_room e hroom, ← List.append_cons]
    · rw [List.foldl_cons, hoverflow, Queue.push_of_room e hroom, Queue.slotWrite_overflow]

/-- Settles O16: fifteen pushes fit into an empty queue, and then it is full. -/
theorem sixteenthPushOverflowsWithoutCorruption : Obligations.SixteenthPushOverflowsWithoutCorruption := by
  intro q es e hclear hempty hlen
  have hfits : q.count + es.length ≤ 15 := by rw [q.head_eq_tail_iff.1 hempty, hlen]
  obtain ⟨hcontents, hoverflow⟩ := Queue.foldl_push_of_room hfits
  rw [Queue.contents_of_empty hempty, List.nil_append] at hcontents
  have hfull : (es.foldl Queue.push q).head + 1 = (es.foldl Queue.push q).tail := by
    rw [Queue.head_succ_eq_tail_iff, ← Queue.contents_length, hcontents, hlen]
  rw [Queue.push_of_full e hfull]
  exact ⟨hcontents, hoverflow.trans hclear, rfl, hcontents, rfl, fun _ => rfl⟩

end Sys2Proof.Machine

/-! The consumer's own operations and the cases of its iteration (41_event_queue.md R100–R103). -/

namespace Sys2Proof.Machine

/-! ## POP and OVERFLOW_CHECK -/

/-- Settles O17: the two cases of the queue's pop. -/
theorem popOperationResult : Obligations.PopOperationResult := by
  intro s hr
  obtain ⟨hslot, hhead, hover⟩ := s.queue.pop_frame
  refine ⟨popEvent s, whenRunning_of_running hr _, rfl, rfl, rfl, rfl, rfl, rfl, rfl,
    ⟨sameMemory_of_capture_eq rfl, rfl, rfl, rfl⟩, hhead, hslot, hover, ?_⟩
  simp only [popEvent, State.withPopped_ctl, State.withPopped_queue, State.withQueue_queue]
  obtain ⟨he, hp⟩ | ⟨hne, hp⟩ := s.queue.pop_cases <;> rw [hp]
  · exact ⟨fun _ => ⟨rfl, rfl⟩, fun hne => absurd he hne⟩
  · exact ⟨fun he => absurd he hne, fun _ => ⟨rfl, toNat_succ_u4 _⟩⟩

/-- Writing `c.halted` changes nothing beside the control bits. -/
theorem onlyControl_withHalted (s : State) (b : Bool) : OnlyControl s (s.withHalted b) :=
  ⟨rfl, rfl, rfl, rfl, rfl, rfl, rfl, sameMemory_of_capture_eq rfl, rfl, rfl, rfl⟩

/-- With an overflow recorded the check halts (R101). -/
theorem overflowChecked_of_overflow {s : State} (h : s.queue.overflow = true) : overflowChecked s = s.withHalted true :=
  if_pos h

/-- With none recorded the check changes nothing (R101). -/
theorem overflowChecked_of_clear {s : State} (h : s.queue.overflow = false) : overflowChecked s = s := by
  simp [overflowChecked, h]

/-- For a running consumer the check writes the overflow flag into `c.halted`. -/
theorem overflowChecked_eq_withHalted {s : State} (h : s.ctl.halted = false) :
    overflowChecked s = s.withHalted s.queue.overflow := by
  cases ho : s.queue.overflow
  · rw [overflowChecked_of_clear ho, ← h]
    rfl
  · exact overflowChecked_of_overflow ho

/-- Settles O18: the check writes `c.halted` alone. -/
theorem overflowCheckResult : Obligations.OverflowCheckResult := by
  intro s hr
  refine ⟨s.withHalted s.queue.overflow, ?_, onlyControl_withHalted s _, rfl, rfl⟩
  rw [← overflowChecked_eq_withHalted hr]
  exact whenRunning_of_running hr _

/-! ## The cases of the iteration (R102) -/

/-- CONSUMER_STEP is the consumer's iteration. -/
theorem exec_consumerStep (s : State) : exec .consumerStep s = execConsumerStep s := rfl

/-- With an overflow recorded the iteration halts. -/
theorem execConsumerStep_of_overflow {s : State} (hr : s.ctl.halted = false) (ho : s.queue.overflow = true) :
    execConsumerStep s = .next (s.withHalted true) := by
  rw [execConsumerStep, whenRunning_of_running hr, overflowChecked_of_overflow ho]
  rfl

/-- With no overflow recorded the iteration pops and dispatches. -/
theorem execConsumerStep_of_clear {s : State} (hr : s.ctl.halted = false) (ho : s.queue.overflow = false) :
    execConsumerStep s = popAndDispatch s := by
  rw [execConsumerStep, whenRunning_of_running hr, overflowChecked_of_clear ho, hr]
  rfl

/-- With an empty queue the iteration empties the latch and does nothing else. -/
theorem execConsumerStep_of_empty {s : State} (hr : s.ctl.halted = false) (ho : s.queue.overflow = false)
    (he : s.queue.head = s.queue.tail) : execConsumerStep s = .next (s.withPopped none) := by
  have hpop : s.queue.pop = (none, s.queue) := by simp [Queue.pop, Queue.empty, he]
  rw [execConsumerStep_of_clear hr ho, popAndDispatch, popEvent, hpop]
  rfl

/-- With an event at the front the iteration dispatches it, with the event popped. -/
theorem execConsumerStep_of_aboutToPop {s : State} (h : s.aboutToPop) :
    execConsumerStep s = dispatchEvent s.queue.tail s.frontEvent (s.afterPop s.schedule) := by
  obtain ⟨hr, ho, hne⟩ := h
  have hpop : s.queue.pop = (some s.frontEvent, { s.queue with tail := s.queue.tail + 1 }) := by
    simp [Queue.pop, Queue.empty, hne, State.frontEvent]
  rw [execConsumerStep_of_clear hr ho, popAndDispatch, popEvent, hpop]
  rfl

/-- Settles O19: the latch the iteration empties is empty already. -/
theorem idleStepChangesNothing : Obligations.IdleStepChangesNothing := by
  intro s hr ho he hlatch
  have hsame : s.withPopped none = s := by rw [← hlatch]; rfl
  rw [exec_consumerStep, execConsumerStep_of_empty hr ho he, hsame]

/-- Settles O20: the iteration halts before it pops. -/
theorem overflowHaltsBeforeAnyPop : Obligations.OverflowHaltsBeforeAnyPop := fun s hr ho =>
  ⟨s.withHalted true, execConsumerStep_of_overflow hr ho, onlyControl_withHalted s true, rfl, rfl⟩

/-! ## Every iteration completes -/

/-- Parameter writes and then at most one input complete. -/
theorem WritesThenSignals.completes {ts : U32} {s : State} {r : Result} (h : WritesThenSignals ts s r)
    (hr : s.ctl.halted = false) : ∃ t, r = .next t := by
  obtain ⟨p, -, rfl | ⟨x, -, rfl⟩⟩ := h
  · exact ⟨_, rfl⟩
  · obtain ⟨t, ht, -⟩ := signal_running (s := s.withParams p) hr x
    exact ⟨t, ht⟩

/-- A running consumer completes the dispatch of any event: every transaction decodes to an operation with a meaning,
and every stage takes every input (30_encoding.md R94, 44_timing_fsm.md R137). -/
theorem dispatchEvent_completes {s : State} (hr : s.ctl.halted = false) (slot : U4) (e : Event) :
    ∃ t, dispatchEvent slot e s = .next t := by
  unfold dispatchEvent
  cases e.tag with
  | spiTransactionEnded =>
    obtain ⟨b0, b1, draws, hrun⟩ := onTransaction_cases slot e.ts s.lastEnd e.endOffset s
    rw [hrun]
    exact (exec_decodeTxn (s := s.decoding e.endOffset _ draws) hr _ _ b0 b1).completes hr
  | radioDone =>
    obtain ⟨t, ht, -⟩ := signal_running hr (.done e.ts)
    exact ⟨t, ht⟩
  | radioTimeout =>
    obtain ⟨t, ht, -⟩ := signal_running hr (.timeout e.ts)
    exact ⟨t, ht⟩

/-- A dispatched event leaves the queue and the control bits alone. -/
theorem dispatchEvent_frame {slot : U4} {e : Event} {s t : State} (h : dispatchEvent slot e s = .next t)
    (hr : s.ctl.halted = false) : t.queue = s.queue ∧ t.ctl = s.ctl := by
  obtain ⟨-, torn, draws, hh⟩ | ⟨-, hh⟩ := dispatchEvent_next h hr <;> exact ⟨hh.queue, hh.ctl⟩

/-- Settles O21: the three cases of the iteration; an event taken is dispatched, which completes and leaves the queue
and the control bits as the pop left them. -/
theorem runningConsumerAlwaysCompletes : Obligations.RunningConsumerAlwaysCompletes := by
  intro s hr
  rw [exec_consumerStep]
  cases ho : s.queue.overflow with
  | true => exact ⟨_, execConsumerStep_of_overflow hr ho, fun ⟨_, hclear, _⟩ => nomatch ho.symm.trans hclear⟩
  | false =>
    by_cases he : s.queue.head = s.queue.tail
    · exact ⟨_, execConsumerStep_of_empty hr ho he, fun ⟨_, _, hne⟩ => absurd he hne⟩
    · obtain ⟨t, ht⟩ := dispatchEvent_completes (s := s.afterPop s.schedule) hr s.queue.tail s.frontEvent
      obtain ⟨hqueue, hctl⟩ := dispatchEvent_frame ht hr
      refine ⟨t, (execConsumerStep_of_aboutToPop ⟨hr, ho, he⟩).trans ht, fun _ => ?_⟩
      rw [hqueue, hctl]
      exact ⟨toNat_succ_u4 _, hr, rfl⟩

end Sys2Proof.Machine

/-! The operation a popped event runs (41_event_queue.md R103): a radio edge the row of its key, a transaction the
operation its bytes decode to. -/

namespace Sys2Proof.Machine

/-- On the consumer's turn with an event at the front, a step dispatches it with the event popped. -/
theorem step_of_aboutToPop {s : State} {rest : List Move} (hturn : s.consumerTurn rest) (hpop : s.aboutToPop) :
    step s = dispatchEvent s.queue.tail s.frontEvent (s.afterPop rest) :=
  (step_of_consumerTurn hturn).trans (execConsumerStep_of_aboutToPop (s := s.withSchedule rest) hpop)

/-! ## Radio edges -/

/-- Delivering an input is executing the row its key decodes to (44_timing_fsm.md R136, R137). -/
theorem signal_eq_exec {s : State} {k : InputKind} {ts : U32} {i : Instr}
    (h : decode (.key (mkKey s.fsm.stage k) ts 0) = .ok i) : signal (k.withOperands ts 0) s = exec i s := by
  rw [decode_mkKey (by decide)] at h
  cases h
  exact runRow_selectRow _ _ _

/-- Settles O10: the step dispatches the edge, which delivers DONE or TIMEOUT in the current stage. -/
theorem stepRunsTheSelectedTransition : Obligations.StepRunsTheSelectedTransition := by
  intro s rest i hturn hpop
  rw [step_of_aboutToPop hturn hpop]
  refine ⟨fun htag hdec => ?_, fun htag hdec => ?_⟩ <;> simp only [dispatchEvent, htag]
  · exact signal_eq_exec (s := s.afterPop rest) (k := .done) hdec
  · exact signal_eq_exec (s := s.afterPop rest) (k := .timeout) hdec

/-! ## Transactions with stable bytes -/

/-- A byte of a transaction by its number (20_memory.md R54). -/
theorem Capture.getD_bytes (c : Capture) {start stop : U7} {j : Nat} (h : j < (txnLen start stop).toNat) :
    (c.bytes start stop).getD j 0 = c.byteAt (start + BitVec.ofNat 7 j) := by
  simp [Capture.bytes, h]

/-- A transaction in the capture buffer decodes by its length and its first two bytes. -/
theorem decodeBytes_captured (c : Capture) (ts : U32) (start stop : U7) :
    decodeBytes ts (c.bytes start stop) =
      decodeTxn ts (txnLen start stop) ((c.bytes start stop).getD 0 0) ((c.bytes start stop).getD 1 0) := by
  have hlen : (c.bytes start stop).length = (txnLen start stop).toNat := by simp [Capture.bytes]
  rw [decodeBytes_short (hlen ▸ (txnLen start stop).isLt), hlen, BitVec.ofNat_toNat, BitVec.setWidth_eq]

/-- Only a write of length 2 depends on its second byte (42_spi_decoder.md R118). -/
theorem decodeTxn_of_not_write {len : U7} {b0 : Byte} (h : ¬ (writeFlag b0 = true ∧ len = 2)) (ts : U32)
    (b1 b1' : Byte) : decodeTxn ts len b0 b1 = decodeTxn ts len b0 b1' := by
  by_cases hw : writeFlag b0 = true
  · have hlen : len ≠ 2 := fun hlen => h ⟨hw, hlen⟩
    simp only [decodeTxn, if_neg hlen]
  · simp only [decodeTxn, if_neg hw]

/-- With no overwritten byte in the slot's transaction, the bytes fetched select the operation the buffer's bytes
decode to, and fetching them changes nothing. -/
theorem decodeTxn_fetchTxn_of_stable {slot : U4} {s : State} (h : s.stableSlot slot) (ts : U32) (start stop : U7) :
    decodeTxn ts (txnLen start stop) (fetchTxn slot start (txnLen start stop) s).1
        (fetchTxn slot start (txnLen start stop) s).2.1 = decodeBytes ts (s.capture.bytes start stop) ∧
      (fetchTxn slot start (txnLen start stop) s).2.2 = s := by
  rw [decodeBytes_captured]
  by_cases hlen : txnLen start stop = 0
  · simp only [fetchTxn, decodeTxn, if_pos hlen, and_self]
  · have hfirst : (s.capture.bytes start stop).getD 0 0 = s.capture.byteAt start :=
      (s.capture.getD_bytes (by bv_omega)).trans (by rw [BitVec.add_zero])
    rw [hfirst]
    simp only [fetchTxn, if_neg hlen, capRead_stable h]
    by_cases hw : writeFlag (s.capture.byteAt start) = true ∧ txnLen start stop = 2
    · have hsecond : (s.capture.bytes start stop).getD 1 0 = s.capture.byteAt (start + 1) :=
        s.capture.getD_bytes (by rw [hw.2]; decide)
      simp only [hsecond, hw, beq_self_eq_true, Bool.and_self, if_true, and_self]
    · have hcond : (writeFlag (s.capture.byteAt start) && txnLen start stop == 2) = false := by simpa using hw
      simp only [hcond, Bool.false_eq_true, if_false, and_true]
      exact decodeTxn_of_not_write hw ts _ _

/-- With no overwritten byte in the slot's transaction there is no mark of it to forget. -/
theorem clearTorn_of_stable {slot : U4} {s : State} (h : s.stableSlot slot) : s.clearTorn slot = s := by
  have hkept : (s.capture.torn.filter fun t => t.slot ≠ slot) = s.capture.torn :=
    List.filter_eq_self.2 fun t ht => decide_eq_true (h t ht)
  rw [State.clearTorn, hkept]
  rfl

/-- A transaction with stable bytes runs the operation its bytes decode to, once `d.last_end` has moved (R110). -/
theorem onTransaction_of_stable {slot : U4} {s : State} (h : s.stableSlot slot) (ts : U32) (start stop : U7) :
    onTransaction slot ts start stop s = exec (decodeBytes ts (s.capture.bytes start stop)) (s.withLastEnd stop) := by
  have hstable : (s.withLastEnd stop).stableSlot slot := h
  obtain ⟨hselected, hsame⟩ := decodeTxn_fetchTxn_of_stable hstable ts start stop
  rw [State.withLastEnd_capture] at hselected
  simp only [onTransaction, hselected, hsame, clearTorn_of_stable hstable]
  rw [← hselected]
  exact runTxn_decodeTxn _ _ _ _ _

/-- Settles O9: the step dispatches the boundary event, whose transaction stands in the buffer as it was queued. -/
theorem stepRunsTheDecodedTransaction : Obligations.StepRunsTheDecodedTransaction := by
  intro s rest i hturn hpop htag hstable hdec
  have hstable : (s.afterPop rest).stableSlot s.queue.tail := hstable
  have hdec := Except.ok.inj hdec
  rw [step_of_aboutToPop hturn hpop, dispatchEvent, htag, ← hdec]
  exact onTransaction_of_stable hstable s.frontEvent.ts s.lastEnd s.frontEvent.endOffset

end Sys2Proof.Machine

/-! Transactions that are ignored, and the one that signals FIFO_LEN (42_spi_decoder.md R111–R115). -/

namespace Sys2Proof.Machine

/-! ## Ignored transactions -/

/-- `i` is one of the four transaction forms that are ignored (R111, R114, R115, 43_register_writes.md R131). -/
def IgnoredForm (i : Instr) : Prop :=
  i = .spiEmpty ∨ (∃ a len, i = .regWriteBadlen a len) ∨ (∃ a len, i = .regRead a len) ∨ ∃ a v, i = .wrOther a v

/-- A running consumer completes an ignored form with the state it was given. -/
theorem IgnoredForm.exec_eq {i : Instr} (h : IgnoredForm i) {s : State} (hr : s.ctl.halted = false) :
    exec i s = .next s := by
  have hguard := whenRunning_of_running hr (.next s)
  obtain rfl | ⟨a, len, rfl⟩ | ⟨a, len, rfl⟩ | ⟨a, v, rfl⟩ := h <;> exact hguard

/-- Settles O25: the four ignored forms, and their entries in the error table. -/
theorem ignoredFormsChangeNothing : Obligations.IgnoredFormsChangeNothing := by
  intro s a len v hr
  have hsame {i : Instr} (h : IgnoredForm i) : exec i s = .next s := h.exec_eq hr
  exact ⟨hsame (.inl rfl), hsame (.inr (.inl ⟨a, len, rfl⟩)), hsame (.inr (.inr (.inl ⟨a, len, rfl⟩))),
    hsame (.inr (.inr (.inr ⟨a, v, rfl⟩))), rfl, rfl, rfl, rfl, rfl⟩

/-- No byte, a write of a length other than 2, and a read decode to an ignored form. -/
theorem ignoredForm_decodeTxn {len : U7} {b0 : Byte}
    (h : len.toNat = 0 ∨ (len.toNat ≠ 2 ∧ 128 ≤ b0.toNat) ∨ (1 ≤ b0.toNat ∧ b0.toNat < 128)) (ts : U32) (b1 : Byte) :
    IgnoredForm (decodeTxn ts len b0 b1) := by
  obtain hzero | hpos := Nat.eq_zero_or_pos len.toNat
  · exact .inl (decodeTxn_of_empty hzero ts b0 b1)
  · obtain hzero | ⟨htwo, hwrite⟩ | ⟨hne, hread⟩ := h
    · exact absurd hzero hpos.ne'
    · rw [decodeTxn_of_writeFlag hpos hwrite, if_neg htwo]
      exact .inr (.inl ⟨_, _, rfl⟩)
    · exact .inr (.inr (.inl ⟨_, _, decodeTxn_of_readFlag hpos hne hread ts b1⟩))

/-- The first byte of a captured transaction is the one at its start offset; an empty transaction has none, and its
form depends on none. -/
theorem exists_decodeBytes_captured (c : Capture) (ts : U32) (start stop : U7) :
    ∃ b1, decodeBytes ts (c.bytes start stop) = decodeTxn ts (txnLen start stop) (c.byteAt start) b1 := by
  refine ⟨(c.bytes start stop).getD 1 0, ?_⟩
  rw [decodeBytes_captured]
  obtain hzero | hpos := Nat.eq_zero_or_pos (txnLen start stop).toNat
  · rw [decodeTxn_of_empty hzero, decodeTxn_of_empty hzero]
  · rw [c.getD_bytes hpos, BitVec.add_zero]

/-- The length of a transaction is the distance from its start to its end offset modulo 128 (20_memory.md R54). -/
theorem txnLen_toNat (start stop : U7) : (txnLen start stop).toNat = (stop.toNat + 128 - start.toNat) % 128 := by
  unfold txnLen
  bv_omega

/-- Settles O28: the step dispatches the boundary event, and its stable bytes decode to an ignored form. -/
theorem malformedAndReadTransactionsLeaveNoTrace : Obligations.MalformedAndReadTransactionsLeaveNoTrace := by
  rintro s len b0 hpop htag hstable rfl rfl hform
  have hstable : (s.afterPop s.schedule).stableSlot s.queue.tail := hstable
  obtain ⟨b1, hdec⟩ := exists_decodeBytes_captured s.capture s.frontEvent.ts s.lastEnd s.frontEvent.endOffset
  rw [← txnLen_toNat] at hform
  have hignored := ignoredForm_decodeTxn hform s.frontEvent.ts b1
  rw [← hdec] at hignored
  rw [exec_consumerStep, execConsumerStep_of_aboutToPop hpop, dispatchEvent, htag]
  exact (onTransaction_of_stable hstable s.frontEvent.ts s.lastEnd s.frontEvent.endOffset).trans
    (hignored.exec_eq hpop.1)

/-! ## FIFO_READ -/

/-- Rewriting the state machine and emitting a record changes nothing else. -/
theorem onlyFsmOut_withFsm_emit (s : State) (f : Fsm) (r : Report) : OnlyFsmOut s ((s.withFsm f).emit r) :=
  ⟨⟨rfl, rfl, rfl, rfl, sameMemory_of_capture_eq rfl, rfl, rfl, rfl⟩, rfl, rfl⟩

/-- For a running consumer FIFO_READ is the row FIFO_LEN selects in the current stage (R112, 44_timing_fsm.md R137). -/
theorem exec_fifoRead_of_running {s : State} (hr : s.ctl.halted = false) (ts : U32) (n : U7) :
    exec (.fifoRead ts n) s = exec (selectRow s.fsm.stage (.fifoLen ts n)) s :=
  (whenRunning_of_running hr _).trans (runRow_selectRow _ _ s)

/-- In AwaitingData the data row reports and returns to Idle (44_timing_fsm.md R146). -/
theorem exec_tData_of_awaitingData {s : State} (hr : s.ctl.halted = false) (hs : s.fsm.stage = .awaitingData) (ts : U32)
    (n : U7) : exec (.tData ts n) s =
      .next ((s.withFsm { s.fsm with stage := .idle }).emit (dataReport ts n s)) :=
  inStage_run hr hs _

/-- In the current stage the catch-all takes every input the table has no row for (44_timing_fsm.md R147). -/
theorem exec_outOfSync_of_not_hasTransition {s : State} {x : Input} (hr : s.ctl.halted = false)
    (hx : hasTransition s.fsm.stage x.kind = false) :
    exec (.outOfSync s.fsm.stage x) s = .next (raiseOutOfSync x s) := by
  simp only [exec, execOutOfSync, hx, Bool.false_eq_true, if_false]
  exact inStage_run hr rfl _

/-- Only AwaitingData has a row for FIFO_LEN (44_timing_fsm.md R137). -/
theorem hasTransition_fifoLen {st : Stage} (h : st ≠ .awaitingData) : hasTransition st .fifoLen = false := by
  cases st with
  | awaitingData => exact absurd rfl h
  | idle | transmitting | beforeRx1 | inRx1 | beforeRx2 | inRx2 => rfl

/-- Settles O26: FIFO_LEN selects the data row in AwaitingData and the catch-all in every other stage. -/
theorem fifoReadSignalsItsLength : Obligations.FifoReadSignalsItsLength := by
  intro s ts n hr
  rw [exec_fifoRead_of_running hr]
  by_cases hs : s.fsm.stage = .awaitingData
  · have hrow : selectRow s.fsm.stage (.fifoLen ts n) = .tData ts n := by rw [hs]; rfl
    have hexec := exec_tData_of_awaitingData hr hs ts n
    rw [hrow]
    exact ⟨_, hexec, onlyFsmOut_withFsm_emit _ _ _, rfl, ⟨_, rfl, rfl⟩, fun _ => ⟨hexec, _, _, _, _, rfl⟩,
      fun hne => absurd hs hne⟩
  · have hnone : hasTransition s.fsm.stage (Input.fifoLen ts n).kind = false := hasTransition_fifoLen hs
    have hexec := exec_outOfSync_of_not_hasTransition hr hnone
    rw [selectRow_of_not_hasTransition hnone]
    exact ⟨_, hexec, onlyFsmOut_withFsm_emit _ _ _, rfl, ⟨_, rfl, rfl⟩, fun hwait => absurd hwait hs,
      fun _ => ⟨hexec, rfl⟩⟩

end Sys2Proof.Machine

/-! Register writes (43_register_writes.md R123–R130): a handler that only writes parameters, field by field, and
WR_OPMODE, which also signals the start of a transmission or of a reception. -/

namespace Sys2Proof.Machine

/-! ## Writing parameters -/

/-- Writing the Radio Parameter Set changes nothing else. -/
theorem onlyParams_withParams (s : State) (p : Params) : OnlyParams s (s.withParams p) :=
  ⟨rfl, rfl, rfl, rfl, rfl, rfl, rfl, sameMemory_of_capture_eq rfl, rfl, rfl, rfl⟩

/-- A handler that only writes parameters completes for a running consumer (R133). -/
theorem writeParams_of_running {s : State} (hr : s.ctl.halted = false) (p : Params) :
    writeParams s p = .next (s.withParams p) :=
  whenRunning_of_running hr _

/-- Settles O33: both handlers write one parameter. -/
theorem payloadLengthAndLdroWrites : Obligations.PayloadLengthAndLdroWrites := by
  intro s v hr
  refine ⟨⟨_, writeParams_of_running hr _, onlyParams_withParams _ _, rfl⟩,
    ⟨_, writeParams_of_running hr _, onlyParams_withParams _ _, ?_⟩⟩
  rw [State.withParams_params, mc3Ldro_eq]

/-! ## Bytes of the 16-bit parameters (R83) -/

/-- A byte as the new high part keeps the old low byte. -/
theorem mergeHigh_zext16_toNat (hi : Byte) (old : U16) :
    (mergeHigh (zext16 hi) old).toNat = hi.toNat * 256 + old.toNat % 256 := by
  have hlt := hi.isLt
  rw [mergeHigh_toNat, zext16, BitVec.toNat_setWidth]
  omega

/-- The two timeout bits as the new high part keep the old low byte and clear the rest (R125). -/
theorem mergeHigh_mc2TimeoutHigh_toNat (v : Byte) (old : U16) :
    (mergeHigh ((mc2TimeoutHigh v).setWidth 16) old).toNat = v.toNat % 4 * 256 + old.toNat % 256 := by
  rw [mergeHigh_toNat, BitVec.toNat_setWidth, mc2TimeoutHigh_toNat]
  omega

/-- Settles O32: each handler merges V into one half of one parameter. -/
theorem byteWritesMergeIntoTheirHalf : Obligations.ByteWritesMergeIntoTheirHalf := by
  intro s v hr
  exact ⟨⟨_, writeParams_of_running hr _, onlyParams_withParams _ _, rfl, mergeLow_toNat _ _⟩,
    ⟨_, writeParams_of_running hr _, onlyParams_withParams _ _, rfl, mergeHigh_zext16_toNat _ _⟩,
    ⟨_, writeParams_of_running hr _, onlyParams_withParams _ _, rfl, mergeLow_toNat _ _⟩⟩

/-! ## Fields that are accepted or ignored (R84) -/

theorem acceptBwIndex_getD_of_lt {f : BitVec 4} (h : f.toNat < 10) (old : Fin 10) :
    ((acceptBwIndex f).getD old).val = f.toNat := by
  rw [acceptBwIndex, dif_pos (Nat.le_of_lt_succ h), Option.getD_some]

theorem acceptBwIndex_getD_of_ge {f : BitVec 4} (h : 10 ≤ f.toNat) (old : Fin 10) :
    (acceptBwIndex f).getD old = old := by
  rw [acceptBwIndex, dif_neg (Nat.not_le_of_lt h), Option.getD_none]

theorem acceptCodingRate_getD_of_inRange {f : BitVec 3} (h : 5 ≤ f.toNat + 4 ∧ f.toNat + 4 ≤ 8) (old : BitVec 4) :
    ((acceptCodingRate f).getD old).toNat = f.toNat + 4 := by
  obtain ⟨_, _, r, hr, htoNat⟩ | ⟨hn, _⟩ := acceptCodingRate_cases f
  · rw [hr, Option.getD_some, htoNat]
  · exact absurd h hn

theorem acceptCodingRate_getD_of_outOfRange {f : BitVec 3} (h : ¬ (5 ≤ f.toNat + 4 ∧ f.toNat + 4 ≤ 8))
    (old : BitVec 4) :
    (acceptCodingRate f).getD old = old := by
  obtain ⟨h5, h8, _⟩ | ⟨_, hnone⟩ := acceptCodingRate_cases f
  · exact absurd ⟨h5, h8⟩ h
  · rw [hnone, Option.getD_none]

theorem acceptSpreadingFactor_getD_of_inRange {f : BitVec 4} (h : 6 ≤ f.toNat ∧ f.toNat ≤ 12) (old : BitVec 4) :
    (acceptSpreadingFactor f).getD old = f := by
  obtain ⟨_, _, hsome⟩ | ⟨hn, _⟩ := acceptSpreadingFactor_cases f
  · rw [hsome, Option.getD_some]
  · exact absurd h hn

theorem acceptSpreadingFactor_getD_of_outOfRange {f : BitVec 4} (h : ¬ (6 ≤ f.toNat ∧ f.toNat ≤ 12)) (old : BitVec 4) :
    (acceptSpreadingFactor f).getD old = old := by
  obtain ⟨h6, h12, _⟩ | ⟨_, hnone⟩ := acceptSpreadingFactor_cases f
  · exact absurd ⟨h6, h12⟩ h
  · rw [hnone, Option.getD_none]

/-- The bandwidth is BW_TABLE's entry at the stored index (10_state.md R26). -/
theorem Params.bw_of_bwIndex {p : Params} {i : Fin 10} (h : p.bwIndex = i) :
    Config.bwTable.toList[i.val]? = some p.bw := by
  subst h
  rw [Vector.getElem?_toList, Vector.getElem?_eq_getElem p.bwIndex.isLt, Params.bw]

/-- WR_MODEMCONFIG1 is malformed exactly where its value is (60_exceptions.md R182). -/
theorem errorRaised_wrModemconfig1 (v : Byte) (s : State) :
    errorRaised (.wrModemconfig1 v) s = some .malformed ↔ mc1Malformed v = true := by
  simp only [errorRaised, ite_eq_left_iff, reduceCtorEq, imp_false, not_not]

/-- WR_MODEMCONFIG2 is malformed exactly where its value is (60_exceptions.md R182). -/
theorem errorRaised_wrModemconfig2 (v : Byte) (s : State) :
    errorRaised (.wrModemconfig2 v) s = some .malformed ↔ mc2Malformed v = true := by
  simp only [errorRaised, ite_eq_left_iff, reduceCtorEq, imp_false, not_not]

/-- Settles O30: bandwidth index and coding rate are accepted or ignored each on its own, the flag always written. -/
theorem modemConfig1WritesItsFieldsIndependently : Obligations.ModemConfig1WritesItsFieldsIndependently := by
  intro s v hr
  refine ⟨_, writeParams_of_running hr _, onlyParams_withParams _ _, rfl, ?_⟩
  rw [State.withParams_params, ← mc1BwIndex_toNat, ← mc1CodingRate_toNat]
  refine ⟨fun hbw => ?_, fun hbw => ?_, fun hcr => acceptCodingRate_getD_of_inRange hcr _,
    fun hcr => acceptCodingRate_getD_of_outOfRange hcr _, mc1ImplicitHeader_eq v, ?_⟩
  · rw [← acceptBwIndex_getD_of_lt hbw s.params.bwIndex]
    exact Params.bw_of_bwIndex rfl
  · simp only [Params.bw, acceptBwIndex_getD_of_ge hbw]
  · rw [errorRaised_wrModemconfig1, mc1Malformed_iff, mc1BwIndex_toNat, mc1CodingRate_toNat, ← Nat.not_lt,
      ← not_and_or]

/-- Settles O31: the spreading factor is accepted or ignored, the flag and the timeout's high bits always written. -/
theorem modemConfig2WritesItsFieldsIndependently : Obligations.ModemConfig2WritesItsFieldsIndependently := by
  intro s v hr
  refine ⟨_, writeParams_of_running hr _, onlyParams_withParams _ _, rfl, ?_⟩
  rw [State.withParams_params, ← mc2SpreadingFactor_toNat]
  refine ⟨fun hsf => congrArg BitVec.toNat (acceptSpreadingFactor_getD_of_inRange hsf _),
    fun hsf => acceptSpreadingFactor_getD_of_outOfRange hsf _, mc2Crc_eq v, mergeHigh_mc2TimeoutHigh_toNat v _, ?_⟩
  rw [errorRaised_wrModemconfig2, mc2Malformed_iff, mc2SpreadingFactor_toNat]

/-! ## WR_OPMODE (R123) -/

/-- The state WR_OPMODE signals its input in: the long-range flag is written, nothing else. -/
def State.withLongRangeOf (s : State) (v : Byte) : State :=
  s.withParams { s.params with longRange := decide (128 ≤ v.toNat) }

theorem opmodeMode_eq_iff (v : Byte) (m : BitVec 3) : opmodeMode v = m ↔ v.toNat % 8 = m.toNat := by
  rw [← BitVec.toNat_inj, opmodeMode_toNat]

/-- For a running consumer WR_OPMODE writes the flag, then is the row its mode's input selects. -/
theorem exec_wrOpmode_of_running {s : State} (hr : s.ctl.halted = false) (ts : U32) (v : Byte) :
    exec (.wrOpmode ts v) s =
      if v.toNat % 8 = 3 then exec (selectRow s.fsm.stage (.txStart ts)) (s.withLongRangeOf v)
      else if v.toNat % 8 = 6 then exec (selectRow s.fsm.stage (.rxStart ts)) (s.withLongRangeOf v)
      else .next (s.withLongRangeOf v) := by
  have hflag : s.withParams { s.params with longRange := opmodeLongRange v } = s.withLongRangeOf v := by
    rw [opmodeLongRange_eq]
    rfl
  have hsignal (x : Input) :
      signal x (s.withLongRangeOf v) = exec (selectRow s.fsm.stage x) (s.withLongRangeOf v) :=
    runRow_selectRow _ _ _
  have h3 : opmodeMode v = 3 ↔ v.toNat % 8 = 3 := opmodeMode_eq_iff v 3
  have h6 : opmodeMode v = 6 ↔ v.toNat % 8 = 6 := opmodeMode_eq_iff v 6
  simp only [exec, execWrOpmode, whenRunning_of_running hr, hflag, hsignal, h3, h6]

/-- Only Idle has a row for TX_START (44_timing_fsm.md R137). -/
theorem hasTransition_txStart {st : Stage} (h : st ≠ .idle) : hasTransition st .txStart = false := by
  cases st with
  | idle => exact absurd rfl h
  | transmitting | beforeRx1 | inRx1 | beforeRx2 | inRx2 | awaitingData => rfl

/-- Only BeforeRx1 and BeforeRx2 have a row for RX_START (44_timing_fsm.md R137). -/
theorem hasTransition_rxStart {st : Stage} (h1 : st ≠ .beforeRx1) (h2 : st ≠ .beforeRx2) :
    hasTransition st .rxStart = false := by
  cases st with
  | beforeRx1 => exact absurd rfl h1
  | beforeRx2 => exact absurd rfl h2
  | idle | transmitting | inRx1 | inRx2 | awaitingData => rfl

/-- The row of any input but TIMEOUT rewrites the state machine and emits one record: a correction is pushed by the
two timeout rows alone (44_timing_fsm.md R142, R145). -/
theorem exec_selectRow_of_ne_timeout {s : State} (hr : s.ctl.halted = false) {x : Input} (hx : x.kind ≠ .timeout) :
    ∃ f r, exec (selectRow s.fsm.stage x) s = .next ((s.withFsm f).emit r) := by
  cases ht : hasTransition s.fsm.stage x.kind with
  | false =>
    rw [selectRow_of_not_hasTransition ht]
    exact ⟨_, _, exec_outOfSync_of_not_hasTransition hr ht⟩
  | true =>
    cases x with
    | timeout ts => exact absurd rfl hx
    | txStart ts | rxStart ts | done ts | fifoLen ts n =>
      cases hs : s.fsm.stage <;> rw [hs] at ht <;> cases ht <;> exact ⟨_, _, inStage_run hr hs _⟩

theorem OnlyFsmOut.params_eq {s t : State} : OnlyFsmOut s t → t.params = s.params
  | ⟨⟨_, _, hparams, _⟩, _⟩ => hparams

/-- WR_OPMODE always completes, and beside the flag changes only the state machine and the report stream. -/
theorem exec_wrOpmode_onlyFsmOut {s : State} (hr : s.ctl.halted = false) (ts : U32) (v : Byte) :
    ∃ t, exec (.wrOpmode ts v) s = .next t ∧ OnlyFsmOut (s.withLongRangeOf v) t := by
  have hrow (x : Input) (hx : x.kind ≠ .timeout) :
      ∃ t, exec (selectRow s.fsm.stage x) (s.withLongRangeOf v) = .next t ∧ OnlyFsmOut (s.withLongRangeOf v) t := by
    obtain ⟨f, r, hnext⟩ := exec_selectRow_of_ne_timeout (s := s.withLongRangeOf v) hr hx
    exact ⟨_, hnext, onlyFsmOut_withFsm_emit _ f r⟩
  rw [exec_wrOpmode_of_running hr]
  split_ifs
  · exact hrow (.txStart ts) InputKind.noConfusion
  · exact hrow (.rxStart ts) InputKind.noConfusion
  · exact ⟨_, rfl, ⟨rfl, rfl, rfl, rfl, sameMemory_of_capture_eq rfl, rfl, rfl, rfl⟩, rfl, rfl⟩

/-- Settles O29: mode 3 signals TX_START and mode 6 RX_START, whose rows follow from the stage. -/
theorem opmodeWriteSetsTheFlagAndSignals : Obligations.OpmodeWriteSetsTheFlagAndSignals := by
  intro s s' ts v hr hs'
  obtain rfl : s' = s.withLongRangeOf v := hs'
  obtain ⟨t, hnext, hframe⟩ := exec_wrOpmode_onlyFsmOut hr ts v
  have hmodes := exec_wrOpmode_of_running hr ts v
  refine ⟨fun h3 => ?_, fun h6 => ?_, fun h3 h6 => ?_, t, hnext, hframe.params_eq, hframe⟩
  · rw [if_pos h3] at hmodes
    refine ⟨fun hst => ?_, fun hst => ?_⟩
    · rw [hmodes, hst, selectRow]
    · rw [hmodes, selectRow_of_not_hasTransition (hasTransition_txStart hst)]
  · rw [if_neg (by omega), if_pos h6] at hmodes
    refine ⟨fun hst => ?_, fun hst => ?_, fun hst1 hst2 => ?_⟩
    · rw [hmodes, hst, selectRow]
    · rw [hmodes, hst, selectRow]
    · rw [hmodes, selectRow_of_not_hasTransition (hasTransition_rxStart hst1 hst2)]
  · rw [hmodes, if_neg h3, if_neg h6]

end Sys2Proof.Machine

/-! The rows of the transition table and the out-of-sync catch-all, each run in its own stage
(44_timing_fsm.md R138–R147). -/

namespace Sys2Proof.Machine

/-! ## Transmission and receive windows -/

/-- The time elapsed between two timestamps, modulo 2^32 (00_scope.md R9). -/
theorem eq_sub_of_elapsed {m later earlier : U32}
    (h : m.toNat = (later.toNat + 2 ^ 32 - earlier.toNat) % 2 ^ 32) : m = later - earlier := by
  bv_omega

/-- In its stage a row that rewrites the state machine and emits one record completes with just that. -/
theorem inStage_emit_completes {st : Stage} {s : State} (hr : s.ctl.halted = false) (hs : s.fsm.stage = st) (f : Fsm)
    (r : Report) : ∃ t, inStage st s ((s.withFsm f).emit r) = .next t ∧ t.fsm = f ∧ t.out = s.out ++ [r] ∧
      OnlyFsmOut s t :=
  ⟨_, inStage_run hr hs _, rfl, rfl, onlyFsmOut_withFsm_emit s f r⟩

/-- Settles O34: the record carries the start's timestamp alone. -/
theorem txStartInIdleBeginsTransmitting : Obligations.TxStartInIdleBeginsTransmitting := fun _ _ hr hs =>
  inStage_emit_completes hr hs _ _

/-- Settles O35: the measured time is the time since tx_start. -/
theorem radioDoneInTransmittingReportsAirTime : Obligations.RadioDoneInTransmittingReportsAirTime := by
  intro s ts m hr hs hm
  obtain rfl := eq_sub_of_elapsed hm
  exact inStage_emit_completes hr hs _ _

/-- Settles O36: the record carries the time since tx_end. -/
theorem rxStartBeforeRx1OpensWindow1 : Obligations.RxStartBeforeRx1OpensWindow1 := by
  intro s ts m hr hs hm
  obtain rfl := eq_sub_of_elapsed hm
  exact inStage_emit_completes hr hs _ _

/-- Settles O37: the record carries the time since rx1_start. -/
theorem radioDoneInRx1RecordsADownlink : Obligations.RadioDoneInRx1RecordsADownlink := by
  intro s ts m hr hs hm
  obtain rfl := eq_sub_of_elapsed hm
  exact inStage_emit_completes hr hs _ _

/-- Settles O39: the record carries the time since tx_end. -/
theorem rxStartBeforeRx2OpensWindow2 : Obligations.RxStartBeforeRx2OpensWindow2 := by
  intro s ts m hr hs hm
  obtain rfl := eq_sub_of_elapsed hm
  exact inStage_emit_completes hr hs _ _

/-- Settles O40: the record carries the time since rx2_start. -/
theorem radioDoneInRx2RecordsADownlink : Obligations.RadioDoneInRx2RecordsADownlink := by
  intro s ts m hr hs hm
  obtain rfl := eq_sub_of_elapsed hm
  exact inStage_emit_completes hr hs _ _

/-! ## Timeouts -/

/-- Rewriting the state machine and the first rolling average and emitting a record changes nothing else. -/
theorem onlyFsmRaOut_withRa1_emit (s : State) (f : Fsm) (a : Rolling) (r : Report) :
    OnlyFsmRaOut s (((s.withFsm f).withRa1 a).emit r) :=
  ⟨rfl, rfl, rfl, rfl, sameMemory_of_capture_eq rfl, rfl, rfl, rfl⟩

/-- Rewriting the state machine and the second rolling average and emitting a record changes nothing else. -/
theorem onlyFsmRaOut_withRa2_emit (s : State) (f : Fsm) (a : Rolling) (r : Report) :
    OnlyFsmRaOut s (((s.withFsm f).withRa2 a).emit r) :=
  ⟨rfl, rfl, rfl, rfl, sameMemory_of_capture_eq rfl, rfl, rfl, rfl⟩

/-- Settles O38: the record's averages are those after the push. -/
theorem timeoutInRx1PushesACorrection : Obligations.TimeoutInRx1PushesACorrection := by
  rintro s ts _ _ hr hs rfl rfl
  exact ⟨_, inStage_run hr hs _, rfl, rfl, rfl, rfl, onlyFsmRaOut_withRa1_emit _ _ _ _⟩

/-- Settles O41: the record's averages are those after the push. -/
theorem timeoutInRx2EndsTheUplink : Obligations.TimeoutInRx2EndsTheUplink := by
  rintro s ts _ _ hr hs rfl rfl
  exact ⟨_, inStage_run hr hs _, rfl, rfl, rfl, rfl, onlyFsmRaOut_withRa2_emit _ _ _ _⟩

/-! ## The downlink's data -/

/-- With a downlink in RX1 the data report measures window 1 (R146). -/
theorem dataReport_of_rx1 {s : State} (h : s.fsm.result = .downlinkInRx1) (ts : U32) (n : U7) :
    dataReport ts n s = ⟨.idle, ts, .data n .rx1 (s.fsm.rx1End - s.fsm.rx1Start) (airTime s.params n.toNat)
      (((s.fsm.rx1End - s.fsm.rx1Start).toNat : Int) - airTime s.params n.toNat)⟩ := by
  have hwindow : dataWindow s.fsm = .rx1 := if_pos h
  simp only [dataReport, dataMeasured, hwindow]

/-- Without one it measures window 2 (R146). -/
theorem dataReport_of_not_rx1 {s : State} (h : s.fsm.result ≠ .downlinkInRx1) (ts : U32) (n : U7) :
    dataReport ts n s = ⟨.idle, ts, .data n .rx2 (s.fsm.rx2End - s.fsm.rx2Start) (airTime s.params n.toNat)
      (((s.fsm.rx2End - s.fsm.rx2Start).toNat : Int) - airTime s.params n.toNat)⟩ := by
  have hwindow : dataWindow s.fsm = .rx2 := if_neg h
  simp only [dataReport, dataMeasured, hwindow]

/-- Settles O42: the result says which window the record measures. -/
theorem fifoLengthInAwaitingDataReportsTheDownlink : Obligations.FifoLengthInAwaitingDataReportsTheDownlink := by
  intro s ts m n w hr hs hwindow
  refine ⟨_, exec_tData_of_awaitingData hr hs ts n, rfl, ?_, onlyFsmOut_withFsm_emit _ _ _⟩
  obtain ⟨hres, rfl, hm⟩ | ⟨hres, rfl, hm⟩ := hwindow <;> obtain rfl := eq_sub_of_elapsed hm
  · rw [← dataReport_of_rx1 hres]
    rfl
  · rw [← dataReport_of_not_rx1 hres]
    rfl

/-! ## Out of sync -/

/-- Settles O43: the catch-all's effect, and its entry in the error table (60_exceptions.md R179). -/
theorem outOfSyncReportsAndReturnsToIdle : Obligations.OutOfSyncReportsAndReturnsToIdle := fun _ _ hr hx =>
  ⟨_, exec_outOfSync_of_not_hasTransition hr hx, rfl, rfl, onlyFsmOut_withFsm_emit _ _ _, rfl, rfl, rfl⟩

end Sys2Proof.Machine

/-! Where a transition row is refused, and that no step comes there (44_timing_fsm.md R137; log 11). -/

namespace Sys2Proof.Machine

/-- Outside its stage a transition row of a running consumer is refused. -/
theorem inStage_refused {st : Stage} {s : State} (hr : s.ctl.halted = false) (hs : s.fsm.stage ≠ st) (t : State) :
    inStage st s t = .refused .notSelected := by
  rw [inStage, whenRunning_of_running hr, if_neg hs]

/-- A row of the table runs in its stage alone. -/
theorem exec_of_rowStage {i : Instr} {st : Stage} (h : rowStage i = some st) (s : State) :
    ∃ t, exec i s = inStage st s t := by
  cases i <;> cases h <;> exact ⟨_, rfl⟩

/-- The catch-all is refused for a pair the table lists, and outside the stage it names. -/
theorem exec_outOfSync_refused {s : State} {st : Stage} {x : Input} (hr : s.ctl.halted = false)
    (h : hasTransition st x.kind = true ∨ s.fsm.stage ≠ st) : exec (.outOfSync st x) s = .refused .notSelected := by
  simp only [exec, execOutOfSync]
  split_ifs with ht
  · exact whenRunning_of_running hr _
  · exact inStage_refused hr (h.resolve_left ht) _

/-- An event word decodes to one of the three pushes, which complete in every state (41_event_queue.md R97–R99,
R106). -/
theorem exec_completes_of_decodeEvent {w : EventWord} {i : Instr} (h : decodeEvent w = .ok i) (s : State) :
    ∃ t, exec i s = .next t := by
  unfold decodeEvent at h
  split_ifs at h <;> cases h <;> exact ⟨_, rfl⟩

/-- An event word at a port is never refused as a row outside its stage. -/
theorem presentEvent_ne_notSelected (a : Agent) (w : EventWord) (s : State) :
    presentEvent a w s ≠ .refused .notSelected := by
  cases hdec : decodeEvent w with
  | error _ =>
    simp only [presentEvent, hdec]
    exact nofun
  | ok i =>
    obtain ⟨t, ht⟩ := exec_completes_of_decodeEvent hdec s
    simp only [presentEvent, hdec, ht]
    split_ifs <;> exact nofun

/-- A running consumer's iteration completes, so nothing in it is refused. -/
theorem exec_consumerStep_ne_refused {s : State} (hr : s.ctl.halted = false) (reason : Refusal) :
    exec .consumerStep s ≠ .refused reason := by
  obtain ⟨t, ht, -⟩ := runningConsumerAlwaysCompletes s hr
  rw [ht]
  exact nofun

/-- No move selects a row outside its stage. -/
theorem step_ne_notSelected {s : State} (hr : s.ctl.halted = false) : step s ≠ .refused .notSelected := by
  cases hs : s.schedule with
  | nil =>
    rw [step_of_consumerTurn (.inl ⟨hs, rfl⟩)]
    exact exec_consumerStep_ne_refused (s := s.withSchedule []) hr _
  | cons m rest =>
    rw [step_of_schedule_cons hs]
    cases m with
    | dmaWrite off v => exact nofun
    | event a w => exact presentEvent_ne_notSelected a w _
    | consume a =>
      simp only [runMove]
      split_ifs
      · exact exec_consumerStep_ne_refused (s := s.withSchedule rest) hr _
      · exact nofun
    | reset => exact nofun

/-- Settles O44: rows, the catch-all and the step, each by its own lemma. -/
theorem transitionRowsRunOnlyInTheirStage : Obligations.TransitionRowsRunOnlyInTheirStage := by
  intro s i st x hr
  refine ⟨fun hrow hs => ?_, exec_outOfSync_refused hr, step_ne_notSelected hr⟩
  obtain ⟨t, ht⟩ := exec_of_rowStage hrow s
  rw [ht, inStage_refused hr hs]

end Sys2Proof.Machine

/-! What one input does to the stage, the result and the report stream, and that a step delivers at most one
(44_timing_fsm.md R137, R148–R153). -/

namespace Sys2Proof.Machine

/-! ## The table as functions -/

/-- The stage after an input: the transition table's, and Idle for every pair it does not list (R137, R148). -/
def stageAfter : Stage → InputKind → Stage
  | .idle, .txStart => .transmitting
  | .transmitting, .done => .beforeRx1
  | .beforeRx1, .rxStart => .inRx1
  | .inRx1, .done => .awaitingData
  | .inRx1, .timeout => .beforeRx2
  | .beforeRx2, .rxStart => .inRx2
  | .inRx2, .done => .awaitingData
  | .inRx2, .timeout => .idle
  | .awaitingData, .fifoLen => .idle
  | _, _ => .idle

/-- The edges of the transition table (R137). -/
def tableEdges : List (Stage × Stage) :=
  [(.idle, .transmitting), (.transmitting, .beforeRx1), (.beforeRx1, .inRx1), (.inRx1, .awaitingData),
    (.inRx1, .beforeRx2), (.beforeRx2, .inRx2), (.inRx2, .awaitingData), (.inRx2, .idle), (.awaitingData, .idle)]

/-- The result after a record of some kind: four kinds come with a write, the others leave it (R149). -/
def resultAfter (old : DownlinkResult) : ReportBody → DownlinkResult
  | .rx1Downlink _ => .downlinkInRx1
  | .rx2Downlink _ => .downlinkInRx2
  | .rx2Timeout _ => .noDownlink
  | .outOfSync _ _ => .noDownlink
  | .txBegin | .txEnd _ _ _ | .rx1Open _ | .rx1Timeout _ | .rx2Open _ | .data _ _ _ _ _ => old

/-- A listed pair is an edge of the table. -/
theorem stageAfter_mem_tableEdges {st : Stage} {k : InputKind} (h : hasTransition st k = true) :
    (st, stageAfter st k) ∈ tableEdges := by
  revert h
  cases st <;> cases k <;> decide

/-- Every other pair leads to Idle. -/
theorem stageAfter_of_not_hasTransition {st : Stage} {k : InputKind} (h : hasTransition st k = false) :
    stageAfter st k = .idle := by
  revert h
  cases st <;> cases k <;> decide

/-! ## One input -/

/-- `t` is `s` after the input `x`, which left the record `r`. -/
structure InputEffect (x : Input) (r : Report) (s t : State) : Prop where
  out : t.out = s.out ++ [r]
  stage : t.fsm.stage = stageAfter s.fsm.stage x.kind
  result : t.fsm.result = resultAfter s.fsm.result r.body
  recordStage : r.stage = t.fsm.stage
  recordTs : r.ts = x.ts
  unlisted : hasTransition s.fsm.stage x.kind = false → r.body = .outOfSync x.kind s.fsm.stage

/-- Entering OUT_OF_SYNC is the effect of an input the table does not list. -/
theorem inputEffect_raiseOutOfSync {s : State} {x : Input} (h : hasTransition s.fsm.stage x.kind = false) :
    InputEffect x ⟨.idle, x.ts, .outOfSync x.kind s.fsm.stage⟩ s (raiseOutOfSync x s) :=
  ⟨rfl, (stageAfter_of_not_hasTransition h).symm, rfl, rfl, rfl, fun _ => rfl⟩

/-- A running consumer's `signal` leaves one record, and the stage and the result that go with it (R137–R147). -/
theorem signal_inputEffect {s : State} (hr : s.ctl.halted = false) (x : Input) :
    ∃ r t, signal x s = .next t ∧ InputEffect x r s t := by
  cases ht : hasTransition s.fsm.stage x.kind with
  | false =>
    refine ⟨_, _, ?_, inputEffect_raiseOutOfSync ht⟩
    rw [signal, selectRow_of_not_hasTransition ht]
    exact exec_outOfSync_of_not_hasTransition hr ht
  | true =>
    have hlisted := ne_false_of_eq_true ht
    cases hs : s.fsm.stage <;> cases x <;> rw [hs] at ht <;> cases ht <;> rw [signal, hs] <;>
      exact ⟨_, _, inStage_run hr hs _, rfl, by rw [hs]; rfl, rfl, rfl, rfl, fun h => absurd h hlisted⟩

/-! ## At most one input in a step -/

/-- What the state machine writes stands: the report stream, its registers and both rolling averages. -/
structure SameTiming (s t : State) : Prop where
  out : t.out = s.out
  fsm : t.fsm = s.fsm
  ra1 : t.ra1 = s.ra1
  ra2 : t.ra2 = s.ra2

/-- Between `s` and `t` either no input was delivered, or one with the timestamp `ts`. -/
def AtMostOneInput (ts : U32) (s t : State) : Prop :=
  SameTiming s t ∨ ∃ x r, x.ts = ts ∧ InputEffect x r s t

/-- Writes beside the timing, and then at most one input. -/
theorem AtMostOneInput.after {ts : U32} {s u t : State} (h : AtMostOneInput ts u t) (hsame : SameTiming s u) :
    AtMostOneInput ts s t := by
  obtain ⟨hout, hfsm, hra1, hra2⟩ := hsame
  obtain hnone | ⟨x, r, hts, heffect⟩ := h
  · exact .inl ⟨hnone.out.trans hout, hnone.fsm.trans hfsm, hnone.ra1.trans hra1, hnone.ra2.trans hra2⟩
  · obtain ⟨hrecord, hstage, hresult, hrst, hrts, hunlisted⟩ := heffect
    rw [hout] at hrecord
    rw [hfsm] at hstage hresult hunlisted
    exact .inr ⟨x, r, hts, hrecord, hstage, hresult, hrst, hrts, hunlisted⟩

/-- A signalled input is one input. -/
theorem signal_atMostOneInput {x : Input} {s t : State} (hr : s.ctl.halted = false) (h : signal x s = .next t) :
    AtMostOneInput x.ts s t := by
  obtain ⟨r, t', ht', heffect⟩ := signal_inputEffect hr x
  cases ht'.symm.trans h
  exact .inr ⟨x, r, rfl, heffect⟩

/-- A decoded transaction signals at most one input, with its boundary event's timestamp (42_spi_decoder.md R119). -/
theorem WritesThenSignals.atMostOneInput {ts : U32} {s t : State} {k : Result} (h : WritesThenSignals ts s k)
    (hr : s.ctl.halted = false) (hk : k = .next t) : AtMostOneInput ts s t := by
  obtain ⟨p, -, rfl | ⟨x, rfl, rfl⟩⟩ := h
  · cases hk
    exact .inl ⟨rfl, rfl, rfl, rfl⟩
  · exact (signal_atMostOneInput (s := s.withParams p) hr hk).after ⟨rfl, rfl, rfl, rfl⟩

/-- A dispatched event delivers at most one input, with its own timestamp (41_event_queue.md R103). -/
theorem dispatchEvent_atMostOneInput {slot : U4} {e : Event} {s t : State} (h : dispatchEvent slot e s = .next t)
    (hr : s.ctl.halted = false) : AtMostOneInput e.ts s t := by
  unfold dispatchEvent at h
  cases htag : e.tag with
  | spiTransactionEnded =>
    rw [htag] at h
    obtain ⟨b0, b1, draws, hrun⟩ := onTransaction_cases slot e.ts s.lastEnd e.endOffset s
    have hdecoded := (exec_decodeTxn (s := s.decoding e.endOffset _ draws) hr _ _ b0 b1).atMostOneInput hr
      (hrun.symm.trans h)
    exact hdecoded.after ⟨rfl, rfl, rfl, rfl⟩
  | radioDone =>
    rw [htag] at h
    exact signal_atMostOneInput hr h
  | radioTimeout =>
    rw [htag] at h
    exact signal_atMostOneInput hr h

/-- The consumer's iteration delivers at most one input, with the front event's timestamp (41_event_queue.md R102). -/
theorem execConsumerStep_atMostOneInput {s t : State} (h : execConsumerStep s = .next t) :
    AtMostOneInput s.frontEvent.ts s t := by
  obtain ⟨hr, ⟨-, rfl⟩ | ⟨-, -, rfl⟩ | ⟨-, -, hd⟩⟩ := execConsumerStep_next h
  · exact .inl ⟨rfl, rfl, rfl, rfl⟩
  · exact .inl ⟨rfl, rfl, rfl, rfl⟩
  · have hdispatched := dispatchEvent_atMostOneInput hd hr
    exact hdispatched.after ⟨rfl, rfl, rfl, rfl⟩

/-- A step other than a reset delivers at most one input, and only the consumer delivers any (R150, R153). -/
theorem step_atMostOneInput {s t : State} (h : step s = .next t) (hreset : ¬ s.resetNext) :
    AtMostOneInput s.frontEvent.ts s t := by
  obtain ⟨rest, hs, -⟩ | ⟨o, v, rest, -, rfl⟩ | ⟨a, w, rest, e, -, -, rfl⟩ | ⟨rest, -, hc⟩ := step_next h
  · exact absurd ⟨rest, hs⟩ hreset
  · exact .inl ⟨rfl, rfl, rfl, rfl⟩
  · exact .inl ⟨rfl, rfl, rfl, rfl⟩
  · have hturn := execConsumerStep_atMostOneInput hc
    exact hturn.after ⟨rfl, rfl, rfl, rfl⟩

/-! ## The stage, the records and the result along a step -/

/-- Settles O45: a change of stage comes from an input, listed by the table or not. -/
theorem stageChangesFollowTheTable : Obligations.StageChangesFollowTheTable := by
  intro s t hst hreset hne
  obtain hsame | ⟨x, ⟨rst, rts, body⟩, -, heffect⟩ := step_atMostOneInput hst hreset
  · exact absurd (congrArg Fsm.stage hsame.fsm) hne
  · cases hx : hasTransition s.fsm.stage x.kind with
    | true =>
      rw [heffect.stage]
      exact .inl (stageAfter_mem_tableEdges hx)
    | false =>
      have hidle : t.fsm.stage = .idle := heffect.stage.trans (stageAfter_of_not_hasTransition hx)
      have hbody : body = .outOfSync x.kind s.fsm.stage := heffect.unlisted hx
      have hrst : rst = .idle := heffect.recordStage.trans hidle
      subst hbody hrst
      exact .inr ⟨hidle, rts, x.kind, heffect.out⟩

/-- Settles O46: at most one input, and one record for it. -/
theorem oneRecordPerInputWithItsTimestamp : Obligations.OneRecordPerInputWithItsTimestamp := by
  intro s t hst hreset
  obtain ⟨hout, hfsm, hra1, hra2⟩ | ⟨x, r, hts, heffect⟩ := step_atMostOneInput hst hreset
  · exact .inl ⟨hout, hfsm, hra1, hra2⟩
  · exact .inr ⟨r, heffect.out, heffect.recordStage, heffect.recordTs.trans hts⟩

/-- Settles O47: without an input the result stands, and an input's record says what it wrote. -/
theorem resultHasFourWriters : Obligations.ResultHasFourWriters := by
  intro s t hst hreset
  obtain hsame | ⟨x, r', -, heffect⟩ := step_atMostOneInput hst hreset
  · exact ⟨fun _ => congrArg Fsm.result hsame.fsm,
      fun r hr => absurd (hsame.out.symm.trans hr) (by simp)⟩
  · refine ⟨fun hout => absurd (hout.symm.trans heffect.out) (by simp), fun r hr => ?_⟩
    obtain rfl : r' = r := by simpa using heffect.out.symm.trans hr
    have hresult := heffect.result
    obtain ⟨rst, rts, body⟩ := r'
    cases body <;> exact hresult

end Sys2Proof.Machine

/-! The durations of the timing arithmetic in numbers, and their ranges (45_timing_arithmetic.md R158–R162, R167). -/

namespace Sys2Proof.Machine

/-! ## The bandwidth and the symbol -/

/-- BW_TABLE runs from 7800 to 500000 Hz (00_scope.md R7). -/
theorem Params.bw_bounds (p : Params) : 7800 ≤ p.bw ∧ p.bw ≤ 500000 := by
  have htable : ∀ i : Fin 10, 7800 ≤ Config.bwTable[i.val] ∧ Config.bwTable[i.val] ≤ 500000 := by decide
  exact htable p.bwIndex

/-- The symbol's duration is a quotient of natural numbers. -/
theorem symbolDuration_eq_natCast (p : Params) : symbolDuration p = ((2 ^ p.sf.toNat * 1000000 / p.bw : Nat) : Int) :=
  (Int.ofNat_tdiv _ _).symm

theorem symbolDuration_nonneg (p : Params) : 0 ≤ symbolDuration p := by
  rw [symbolDuration_eq_natCast]
  exact Int.natCast_nonneg _

/-- The symbol's duration is the whole part of 2^SF * 1000000 / BW (R158). -/
theorem symbolDuration_whole_part (p : Params) :
    symbolDuration p * (p.bw : Int) ≤ 2 ^ p.sf.toNat * 1000000 ∧
      2 ^ p.sf.toNat * 1000000 < (symbolDuration p + 1) * (p.bw : Int) := by
  have hpos : 0 < p.bw := by have := p.bw_bounds; omega
  rw [symbolDuration_eq_natCast]
  constructor
  · exact_mod_cast Nat.div_mul_le_self _ _
  · rw [mul_comm (_ + 1)]
    exact_mod_cast Nat.lt_mul_div_succ _ hpos

/-- The preamble is as many symbols as programmed, four more, and the whole part of a quarter of one (R159). -/
theorem preambleDuration_eq (p : Params) :
    preambleDuration p = ((p.preamble.toNat : Int) + 4) * symbolDuration p + symbolDuration p / 4 := by
  rw [preambleDuration, Int.tdiv_eq_ediv_of_nonneg (symbolDuration_nonneg p)]

/-- Settles O60: the two whole parts are the model's own quotients. -/
theorem timingDurationsInNumbers : Obligations.TimingDurationsInNumbers := by
  intro p pl _
  obtain ⟨hle, hlt⟩ := symbolDuration_whole_part p
  have hpre := preambleDuration_eq p
  refine ⟨symbolDuration p, symbolDuration p / 4, symbolDuration_nonneg p, hle, hlt, ?_, ?_, rfl, hpre, rfl, ?_⟩
  · omega
  · omega
  · rw [airTime, hpre]

/-! ## The payload -/

/-- The blocks the payload takes (R160). -/
def payloadBlocks (p : Params) (pl : Nat) : Int :=
  max 0 (if payloadNumerator p pl < 0 then 0
    else (payloadNumerator p pl + payloadDivisor p - 1).tdiv (payloadDivisor p))

/-- Each block is CR symbols, and eight symbols come before them (R160). -/
theorem payloadSymbols_eq (p : Params) (pl : Nat) :
    payloadSymbols p pl = payloadBlocks p pl * (p.cr.toNat : Int) + 8 := rfl

theorem payloadNumerator_eq (p : Params) (pl : Nat) :
    payloadNumerator p pl = 8 * (pl : Int) - 4 * (p.sf.toNat : Int) + 44 - (if p.ih then 20 else 0) := by
  rw [payloadNumerator, flagInt, mul_ite, mul_one, mul_zero]

theorem payloadDivisor_eq (p : Params) :
    payloadDivisor p = 4 * ((p.sf.toNat : Int) - (if p.ldro then 2 else 0)) := by
  rw [payloadDivisor, flagInt, mul_ite, mul_one, mul_zero]

/-- A block carries at least 4 SF - 8 bits. -/
theorem payloadDivisor_ge (p : Params) : 4 * (p.sf.toNat : Int) - 8 ≤ payloadDivisor p := by
  rw [payloadDivisor_eq]
  split_ifs <;> omega

theorem payloadDivisor_pos {p : Params} (h : p.inRange) : 0 < payloadDivisor p := by
  obtain ⟨⟨hsf, -⟩, -, -⟩ := h
  have hge := payloadDivisor_ge p
  omega

theorem payloadBlocks_nonneg (p : Params) (pl : Nat) : 0 ≤ payloadBlocks p pl := le_max_left _ _

/-- A payload with nothing left over the first eight symbols takes no block. -/
theorem payloadBlocks_of_nonpos {p : Params} (h : p.inRange) {pl : Nat} (ha : payloadNumerator p pl ≤ 0) :
    payloadBlocks p pl = 0 := by
  have hd := payloadDivisor_pos h
  obtain hneg | hzero := lt_or_eq_of_le ha
  · rw [payloadBlocks, if_pos hneg, max_self]
  · have hquot : (0 + payloadDivisor p - 1).tdiv (payloadDivisor p) = 0 :=
      Int.tdiv_eq_zero_of_lt (by omega) (by omega)
    rw [payloadBlocks, hzero, if_neg (lt_irrefl 0), hquot, max_self]

/-- Any other payload takes the fewest blocks that cover it: truncating after adding the divisor less one rounds up. -/
theorem payloadBlocks_covers {p : Params} (h : p.inRange) {pl : Nat} (ha : 0 < payloadNumerator p pl) :
    payloadNumerator p pl ≤ payloadBlocks p pl * payloadDivisor p ∧
      (payloadBlocks p pl - 1) * payloadDivisor p < payloadNumerator p pl := by
  have hd := payloadDivisor_pos h
  have hnum : 0 ≤ payloadNumerator p pl + payloadDivisor p - 1 := by omega
  have hblocks : payloadBlocks p pl = (payloadNumerator p pl + payloadDivisor p - 1) / payloadDivisor p := by
    rw [payloadBlocks, if_neg (by omega), Int.tdiv_eq_ediv_of_nonneg hnum, max_eq_right (Int.ediv_nonneg hnum hd.le)]
  have hlow := Int.ediv_mul_le (payloadNumerator p pl + payloadDivisor p - 1) hd.ne'
  have hhigh := Int.lt_ediv_add_one_mul_self (payloadNumerator p pl + payloadDivisor p - 1) hd
  rw [← hblocks] at hlow hhigh
  constructor <;> linarith

/-- Settles O52: the number is the model's count of blocks. -/
theorem payloadSymbolsAreACeiling : Obligations.PayloadSymbolsAreACeiling := by
  intro p pl a d hp ha hd
  rw [← payloadNumerator_eq] at ha
  rw [← payloadDivisor_eq] at hd
  subst ha hd
  exact ⟨payloadBlocks p pl, payloadSymbols_eq p pl, payloadBlocks_of_nonpos hp, payloadBlocks_covers hp⟩

/-! ## Ranges -/

/-- The slowest symbol is SF 12 at 7800 Hz, the fastest SF 6 at 500000 Hz (R167). -/
theorem symbolDuration_bounds {p : Params} (h : p.inRange) :
    128 ≤ symbolDuration p ∧ symbolDuration p ≤ 525128 := by
  obtain ⟨⟨hsf6, hsf12⟩, -, -⟩ := h
  obtain ⟨hbwMin, hbwMax⟩ := p.bw_bounds
  have hchipsMin : 2 ^ 6 ≤ 2 ^ p.sf.toNat := Nat.pow_le_pow_right (by omega) hsf6
  have hchipsMax : 2 ^ p.sf.toNat ≤ 2 ^ 12 := Nat.pow_le_pow_right (by omega) hsf12
  have hfast : 2 ^ 6 * 1000000 / 500000 ≤ 2 ^ p.sf.toNat * 1000000 / p.bw :=
    Nat.div_le_div (Nat.mul_le_mul_right _ hchipsMin) hbwMax (by omega)
  have hslow : 2 ^ p.sf.toNat * 1000000 / p.bw ≤ 2 ^ 12 * 1000000 / 7800 :=
    Nat.div_le_div (Nat.mul_le_mul_right _ hchipsMax) hbwMin (by omega)
  rw [symbolDuration_eq_natCast]
  exact ⟨mod_cast hfast, mod_cast hslow⟩

theorem preambleDuration_bounds {p : Params} (h : p.inRange) :
    0 ≤ preambleDuration p ∧ preambleDuration p ≤ 34416495274 := by
  obtain ⟨hsdMin, hsdMax⟩ := symbolDuration_bounds h
  have hpre := p.preamble.isLt
  have hprod : ((p.preamble.toNat : Int) + 4) * symbolDuration p ≤ (65535 + 4) * 525128 :=
    mul_le_mul (by omega) hsdMax (by omega) (by omega)
  have hnonneg : 0 ≤ ((p.preamble.toNat : Int) + 4) * symbolDuration p := mul_nonneg (by omega) (by omega)
  rw [preambleDuration_eq]
  omega

theorem windowLen_bounds {p : Params} (h : p.inRange) : 0 ≤ windowLen p ∧ windowLen p ≤ 537205944 := by
  obtain ⟨hsdMin, hsdMax⟩ := symbolDuration_bounds h
  obtain ⟨-, -, hsymb⟩ := h
  have hprod : symbolDuration p * (p.symbTimeout.toNat : Int) ≤ 525128 * 1023 :=
    mul_le_mul hsdMax (by omega) (by omega) (by omega)
  exact ⟨mul_nonneg (by omega) (by omega), hprod⟩

/-- The most blocks are 255 bytes at SF 6 with the low data rate. -/
theorem payloadBlocks_le {p : Params} (h : p.inRange) {pl : Nat} (hpl : pl ≤ 255) : payloadBlocks p pl ≤ 129 := by
  obtain hnone | hsome := le_or_gt (payloadNumerator p pl) 0
  · rw [payloadBlocks_of_nonpos h hnone]
    omega
  · by_contra hmore
    obtain ⟨-, hleast⟩ := payloadBlocks_covers h hsome
    have hd := payloadDivisor_pos h
    have hcovered : 129 * payloadDivisor p ≤ (payloadBlocks p pl - 1) * payloadDivisor p :=
      mul_le_mul_of_nonneg_right (by omega) hd.le
    have hge := payloadDivisor_ge p
    have hnum : payloadNumerator p pl ≤ 8 * (pl : Int) - 4 * (p.sf.toNat : Int) + 44 := by
      rw [payloadNumerator_eq]
      split_ifs <;> omega
    obtain ⟨⟨hsf, -⟩, -, -⟩ := h
    omega

theorem payloadSymbols_bounds {p : Params} (h : p.inRange) {pl : Nat} (hpl : pl ≤ 255) :
    0 ≤ payloadSymbols p pl ∧ payloadSymbols p pl ≤ 1040 := by
  have hnonneg := payloadBlocks_nonneg p pl
  have hle := payloadBlocks_le h hpl
  obtain ⟨-, ⟨-, hcr⟩, -⟩ := h
  have hprod : payloadBlocks p pl * (p.cr.toNat : Int) ≤ 129 * 8 := mul_le_mul hle (by omega) (by omega) (by omega)
  have hprodNonneg : 0 ≤ payloadBlocks p pl * (p.cr.toNat : Int) := mul_nonneg hnonneg (by omega)
  rw [payloadSymbols_eq]
  omega

theorem airTime_bounds {p : Params} (h : p.inRange) {pl : Nat} (hpl : pl ≤ 255) :
    0 ≤ airTime p pl ∧ airTime p pl < 2 ^ 36 := by
  obtain ⟨hsdMin, hsdMax⟩ := symbolDuration_bounds h
  obtain ⟨hpreMin, hpreMax⟩ := preambleDuration_bounds h
  obtain ⟨hsymMin, hsymMax⟩ := payloadSymbols_bounds h hpl
  have hprod : payloadSymbols p pl * symbolDuration p ≤ 1040 * 525128 :=
    mul_le_mul hsymMax hsdMax (by omega) (by omega)
  have hprodNonneg : 0 ≤ payloadSymbols p pl * symbolDuration p := mul_nonneg hsymMin (by omega)
  rw [airTime]
  omega

/-- Settles O51, value by value. -/
theorem timingArithmeticRanges : Obligations.TimingArithmeticRanges := by
  intro p pl hp hpl
  obtain ⟨hsdMin, hsdMax⟩ := symbolDuration_bounds hp
  obtain ⟨hpreMin, hpreMax⟩ := preambleDuration_bounds hp
  obtain ⟨hsymMin, hsymMax⟩ := payloadSymbols_bounds hp hpl
  obtain ⟨hwinMin, hwinMax⟩ := windowLen_bounds hp
  exact ⟨hsdMin, hsdMax, hpreMin, hpreMax, hsymMin, hsymMax, hwinMin, hwinMax, airTime_bounds hp hpl⟩

end Sys2Proof.Machine

/-! The instants of a receive window modulo 2^32, and how far a window's end is from the optimum
(45_timing_arithmetic.md R163–R165, 70_reset_and_hazards.md R209). -/

namespace Sys2Proof.Machine

/-- A timestamp plus a natural number wraps (00_scope.md R9). -/
theorem wrap32_natCast_toNat (n : Nat) : (wrap32 (n : Int)).toNat = n % 2 ^ 32 := by
  rw [wrap32, BitVec.ofInt_natCast, BitVec.toNat_ofNat]

theorem expectedStart_toNat (txEnd delay : U32) :
    (expectedStart txEnd delay).toNat = (txEnd.toNat + delay.toNat) % 2 ^ 32 :=
  BitVec.toNat_add _ _

/-- Settles O54: half of a sum that is not negative is a natural number, and sums of those wrap. -/
theorem optimalEndIsCentred : Obligations.OptimalEndIsCentred := by
  intro p txEnd delay h hp hhalf
  obtain ⟨hpre, -⟩ := preambleDuration_bounds hp
  obtain ⟨hwin, -⟩ := windowLen_bounds hp
  have htrunc : (preambleDuration p + windowLen p).tdiv 2 = (h : Int) := by
    rw [Int.tdiv_eq_ediv_of_nonneg (add_nonneg hpre hwin), hhalf]
  refine ⟨expectedStart_toNat txEnd delay, ?_⟩
  rw [optimalEnd, htrunc, ← Int.natCast_add, wrap32_natCast_toNat, expectedStart_toNat, Nat.mod_add_mod]

/-- A difference of timestamps, read as a signed number, is the number of steps that lead from one to the other. -/
theorem toInt_sub_of_toNat_eq_add {x y : U32} {d : Int} (hmin : -2 ^ 31 ≤ d) (hmax : d < 2 ^ 31)
    (h : (x.toNat : Int) = ((y.toNat : Int) + d) % 2 ^ 32) : (x - y).toInt = d := by
  have hx := x.isLt
  have hy := y.isLt
  rw [BitVec.toInt_eq_toNat_cond, BitVec.toNat_sub]
  split_ifs <;> omega

/-- Settles O53: the correction is the difference of the two timestamps. -/
theorem correctionIsTheSignedDifference : Obligations.CorrectionIsTheSignedDifference :=
  fun _ _ _ _ _ hmin hmax h => toInt_sub_of_toNat_eq_add hmin hmax h

end Sys2Proof.Machine

/-! The two flags of the Radio Parameter Set that no rule reads, operation by operation and along a step
(45_timing_arithmetic.md R168, 10_state.md R30, R34). -/

namespace Sys2Proof.Machine

/-! ## Not reading the flags -/

/-- What the operation answers, but for the two flags, is the same whatever the two flags are. -/
def IgnoresUnread (f : State → Result) : Prop :=
  ∀ s, mapNext State.eraseUnread (f s) = mapNext State.eraseUnread (f s.eraseUnread)

/-- What the update leaves, but for the two flags, is the same whatever the two flags are. -/
def UpdateIgnoresUnread (g : State → State) : Prop := ∀ s, (g s).eraseUnread = (g s.eraseUnread).eraseUnread

theorem UpdateIgnoresUnread.next {g : State → State} (h : UpdateIgnoresUnread g) :
    IgnoresUnread fun s => .next (g s) :=
  fun s => congrArg Host.Outcome.next (h s)

theorem IgnoresUnread.refused (r : Refusal) : IgnoresUnread fun _ => .refused r := fun _ => rfl

/-- An operation after an update. -/
theorem IgnoresUnread.after {f : State → Result} {g : State → State} (hf : IgnoresUnread f)
    (hg : UpdateIgnoresUnread g) : IgnoresUnread fun s => f (g s) := fun s =>
  calc mapNext State.eraseUnread (f (g s))
    _ = mapNext State.eraseUnread (f (g s).eraseUnread) := hf _
    _ = mapNext State.eraseUnread (f (g s.eraseUnread).eraseUnread) := by rw [hg s]
    _ = mapNext State.eraseUnread (f (g s.eraseUnread)) := (hf _).symm

/-- A choice by a condition that does not read the flags. -/
theorem IgnoresUnread.ite {c : State → Prop} [DecidablePred c] {f g : State → Result}
    (hc : ∀ s, c s.eraseUnread ↔ c s) (hf : IgnoresUnread f) (hg : IgnoresUnread g) :
    IgnoresUnread fun s => if c s then f s else g s := by
  intro s
  by_cases h : c s
  · simpa only [if_pos h, if_pos ((hc s).2 h)] using hf s
  · simpa only [if_neg h, if_neg (mt (hc s).1 h)] using hg s

/-- The guard of the consumer's operations reads the control bit alone. -/
theorem IgnoresUnread.whenRunning {f : State → Result} (h : IgnoresUnread f) :
    IgnoresUnread fun s => Machine.whenRunning s (f s) :=
  IgnoresUnread.ite (fun _ => Iff.rfl) (fun _ => rfl) h

/-- The guard of a transition row reads the control bit and the stage. -/
theorem UpdateIgnoresUnread.inStage {g : State → State} (h : UpdateIgnoresUnread g) (st : Stage) :
    IgnoresUnread fun s => Machine.inStage st s (g s) :=
  (IgnoresUnread.ite (fun _ => Iff.rfl) h.next (IgnoresUnread.refused _)).whenRunning

/-! ## The state machine -/

/-- No transition row reads the flags: the timing arithmetic it reports does not (R168). -/
theorem runRow_ignoresUnread (i : Instr) : IgnoresUnread (runRow i) := by
  cases i with
  | tIdleTx | tTxDone | tBrx1Rx | tRx1Done | tRx1Tmo | tBrx2Rx | tRx2Done | tRx2Tmo | tData =>
    exact UpdateIgnoresUnread.inStage (fun _ => rfl) _
  | outOfSync st x =>
    change IgnoresUnread (execOutOfSync st x)
    unfold execOutOfSync
    split_ifs
    · exact (IgnoresUnread.refused _).whenRunning
    · exact UpdateIgnoresUnread.inStage (fun _ => rfl) st
  | _ => exact IgnoresUnread.refused _

/-- The row an input selects depends on the stage alone. -/
theorem signal_ignoresUnread (x : Input) : IgnoresUnread (signal x) := fun s =>
  runRow_ignoresUnread (selectRow s.fsm.stage x) s

/-! ## Transactions -/

/-- WR_OPMODE writes one of the flags, and its input does not depend on it. -/
theorem execWrOpmode_ignoresUnread (ts : U32) (v : Byte) : IgnoresUnread (execWrOpmode ts v) := by
  have hwrite : UpdateIgnoresUnread fun s => s.withParams { s.params with longRange := opmodeLongRange v } :=
    fun _ => rfl
  unfold execWrOpmode
  refine IgnoresUnread.whenRunning ?_
  split_ifs
  · exact (signal_ignoresUnread (.txStart ts)).after hwrite
  · exact (signal_ignoresUnread (.rxStart ts)).after hwrite
  · exact hwrite.next

/-- No transaction form reads the flags, WR_MODEMCONFIG2 and WR_OPMODE only write them (43_register_writes.md R123,
R125). -/
theorem runTxn_ignoresUnread (i : Instr) : IgnoresUnread (runTxn i) := by
  cases i with
  | spiEmpty | regWriteBadlen | regRead | wrOther =>
    exact IgnoresUnread.whenRunning (UpdateIgnoresUnread.next fun _ => rfl)
  | fifoRead ts n => exact (signal_ignoresUnread (.fifoLen ts n)).whenRunning
  | wrOpmode ts v => exact execWrOpmode_ignoresUnread ts v
  | wrModemconfig1 | wrModemconfig2 | wrSymbtimeoutlsb | wrPreamblemsb | wrPreamblelsb | wrPayloadlength
  | wrModemconfig3 => exact IgnoresUnread.whenRunning (UpdateIgnoresUnread.next fun _ => rfl)
  | _ => exact IgnoresUnread.refused _

/-- Moving `d.last_end` commutes with forgetting the flags. -/
theorem State.eraseUnread_withLastEnd (s : State) (e : U7) :
    s.eraseUnread.withLastEnd e = (s.withLastEnd e).eraseUnread := rfl

/-- A capture read gives the same byte whatever the flags are, and passes them on. -/
theorem capRead_eraseUnread (slot : U4) (o : U7) (s : State) :
    capRead slot o s.eraseUnread = ((capRead slot o s).1, (capRead slot o s).2.eraseUnread) := by
  change (if s.capture.torn.contains ⟨slot, o⟩ then _ else _) = _
  unfold capRead
  split_ifs <;> rfl

/-- So does reading the bytes a form depends on. -/
theorem fetchTxn_eraseUnread (slot : U4) (start len : U7) (s : State) :
    fetchTxn slot start len s.eraseUnread = ((fetchTxn slot start len s).1, (fetchTxn slot start len s).2.1,
      (fetchTxn slot start len s).2.2.eraseUnread) := by
  unfold fetchTxn
  simp only [capRead_eraseUnread]
  split_ifs <;> rfl

/-- The form of a transaction is decoded from its length and bytes alone (42_spi_decoder.md R110). -/
theorem onTransaction_ignoresUnread (slot : U4) (ts : U32) (start stop : U7) :
    IgnoresUnread (onTransaction slot ts start stop) := by
  intro s
  have hfetch := fetchTxn_eraseUnread slot start (txnLen start stop) (s.withLastEnd stop)
  simp only [onTransaction, State.eraseUnread_withLastEnd, hfetch]
  exact runTxn_ignoresUnread _ _

/-! ## The consumer, and every move -/

theorem dispatchEvent_ignoresUnread (slot : U4) (e : Event) : IgnoresUnread (dispatchEvent slot e) := by
  intro s
  unfold dispatchEvent
  cases e.tag with
  | spiTransactionEnded => exact onTransaction_ignoresUnread slot e.ts s.lastEnd e.endOffset s
  | radioDone => exact signal_ignoresUnread (.done e.ts) s
  | radioTimeout => exact signal_ignoresUnread (.timeout e.ts) s

/-- The cases of the iteration, and the event it dispatches, do not depend on the flags. -/
theorem execConsumerStep_ignoresUnread : IgnoresUnread execConsumerStep := by
  intro s
  cases hr : s.ctl.halted with
  | true =>
    unfold execConsumerStep
    rw [whenRunning_of_halted hr, whenRunning_of_halted (s := s.eraseUnread) hr]
  | false =>
    cases ho : s.queue.overflow with
    | true =>
      rw [execConsumerStep_of_overflow hr ho, execConsumerStep_of_overflow (s := s.eraseUnread) hr ho]
      rfl
    | false =>
      by_cases he : s.queue.head = s.queue.tail
      · rw [execConsumerStep_of_empty hr ho he, execConsumerStep_of_empty (s := s.eraseUnread) hr ho he]
        rfl
      · rw [execConsumerStep_of_aboutToPop ⟨hr, ho, he⟩,
          execConsumerStep_of_aboutToPop (s := s.eraseUnread) ⟨hr, ho, he⟩]
        exact dispatchEvent_ignoresUnread s.queue.tail s.frontEvent (s.afterPop s.schedule)

/-- An event word decodes to the push of one event (41_event_queue.md R97–R99). -/
theorem pushesEvent_of_decodeEvent {w : EventWord} {i : Instr} (h : decodeEvent w = .ok i) :
    ∃ e, PushesEvent i e := by
  unfold decodeEvent at h
  split_ifs at h <;> cases h
  · exact ⟨_, .inl ⟨_, _, rfl, rfl⟩⟩
  · exact ⟨_, .inr (.inl ⟨_, rfl, rfl⟩)⟩
  · exact ⟨_, .inr (.inr ⟨_, rfl, rfl⟩)⟩

/-- A push rewrites the queue from the queue alone. -/
theorem presentEvent_ignoresUnread (a : Agent) (w : EventWord) : IgnoresUnread (presentEvent a w) := by
  unfold presentEvent
  cases hdec : decodeEvent w with
  | error _ => exact fun _ => rfl
  | ok i =>
    obtain ⟨e, hpush⟩ := pushesEvent_of_decodeEvent hdec
    simp only [hpush.exec_eq]
    split_ifs
    · exact UpdateIgnoresUnread.next fun _ => rfl
    · exact IgnoresUnread.refused _

/-- The DMA, the producers and a reset do not read the parameters at all. -/
theorem runMove_ignoresUnread (m : Move) : IgnoresUnread (runMove m) := by
  cases m with
  | dmaWrite off v => exact UpdateIgnoresUnread.next fun _ => rfl
  | event a w => exact presentEvent_ignoresUnread a w
  | consume a =>
    change IgnoresUnread fun s => if a = .consumer then execConsumerStep s else .refused .contextViolation
    split_ifs
    · exact execConsumerStep_ignoresUnread
    · exact IgnoresUnread.refused _
  | reset => exact UpdateIgnoresUnread.next fun _ => rfl

/-- Settles O55: a step is one move, and no move reads the flags. -/
theorem crcAndLongRangeFlagsInfluenceNothing : Obligations.CrcAndLongRangeFlagsInfluenceNothing := by
  intro s
  cases hs : s.schedule with
  | nil =>
    rw [step_of_consumerTurn (.inl ⟨hs, rfl⟩), step_of_consumerTurn (s := s.eraseUnread) (.inl ⟨hs, rfl⟩)]
    exact execConsumerStep_ignoresUnread (s.withSchedule [])
  | cons m rest =>
    rw [step_of_schedule_cons hs, step_of_schedule_cons (s := s.eraseUnread) hs]
    exact runMove_ignoresUnread m (s.withSchedule rest)

end Sys2Proof.Machine

/-! Rolling averages: the samples a ring holds after any pushes, and its mean and variance as quotients by the count
(46_rolling_average.md R171–R175). -/

namespace Sys2Proof.Machine

/-! ## The held samples -/

theorem Rolling.held_length (r : Rolling) : r.held.length = r.count.val := by
  have := r.count.isLt
  simp [Rolling.held]
  omega

/-- A ring on which `xs` was pushed since it was empty: push number `i` is in slot `i % 20` until push number
`i + 20` overwrites it (R171). -/
structure Rolling.Records (r : Rolling) (xs : List S32) : Prop where
  count_eq : r.count.val = min xs.length 20
  next_eq : r.next.val = xs.length % 20
  slot_eq : ∀ (i : Nat) (hi : i < xs.length), xs.length ≤ i + 20 → r.sample[i % 20]'(by omega) = xs[i]

theorem Rolling.records_nil {r : Rolling} (hnext : r.next = 0) (hcount : r.count = 0) : r.Records [] where
  count_eq := by simp [hcount]
  next_eq := by simp [hnext]
  slot_eq := fun _ hi => absurd hi (Nat.not_lt_zero _)

/-- A push lands in the slot of its own number; the others that still count stay, because they are fewer than
twenty pushes old. -/
theorem Rolling.Records.push {r : Rolling} {xs : List S32} (h : r.Records xs) (x : S32) :
    (r.push x).Records (xs ++ [x]) where
  count_eq := by simp [Rolling.push, h.count_eq]; omega
  next_eq := by simp [Rolling.push, h.next_eq]
  slot_eq := by
    intro i hi hrecent
    rw [List.length_append, List.length_singleton] at hi hrecent
    simp only [Rolling.push, Vector.getElem_set, h.next_eq]
    by_cases hlast : i = xs.length
    · subst hlast
      simp
    · have hother : xs.length % 20 ≠ i % 20 := by omega
      rw [if_neg hother, List.getElem_append_left (by omega)]
      exact h.slot_eq i (by omega) (by omega)

theorem Rolling.records_foldl_push {r : Rolling} (hnext : r.next = 0) (hcount : r.count = 0) (xs : List S32) :
    (xs.foldl Rolling.push r).Records xs := by
  induction xs using List.reverseRecOn with
  | nil => exact Rolling.records_nil hnext hcount
  | append_singleton xs x ih =>
    rw [List.foldl_concat]
    exact ih.push x

/-- Until the ring is full, slot `i` holds push number `i`. -/
theorem Rolling.Records.held_eq {r : Rolling} {xs : List S32} (h : r.Records xs) (hlt : xs.length < 20) :
    r.held = xs.map BitVec.toInt := by
  have hcount : r.count.val = xs.length := by rw [h.count_eq, min_eq_left hlt.le]
  refine congrArg (List.map BitVec.toInt) (List.ext_getElem (by simp [hcount, hlt.le]) fun i _ hi => ?_)
  have hslot := h.slot_eq i hi (by omega)
  simpa [Nat.mod_eq_of_lt (hi.trans hlt)] using hslot

/-- The slots of a full ring are the last twenty pushes, rotated so that the oldest stands at `next`. -/
theorem Rolling.Records.sample_eq_rotate {r : Rolling} {xs : List S32} (h : r.Records xs) (hge : 20 ≤ xs.length) :
    r.sample.toList = (xs.drop (xs.length - 20)).rotate (20 - xs.length % 20) := by
  have hlast : (xs.drop (xs.length - 20)).length = 20 := by rw [List.length_drop]; omega
  refine List.ext_getElem (by rw [List.length_rotate, hlast, Vector.length_toList]) fun j hj _ => ?_
  rw [Vector.length_toList] at hj
  have hslot := h.slot_eq (xs.length - 20 + (j + (20 - xs.length % 20)) % 20) (by omega) (by omega)
  have hindex : (xs.length - 20 + (j + (20 - xs.length % 20)) % 20) % 20 = j := by omega
  simpa only [hindex, List.getElem_rotate, List.getElem_drop, hlast, Vector.getElem_toList] using hslot

theorem Rolling.Records.held_perm {r : Rolling} {xs : List S32} (h : r.Records xs) :
    r.held.Perm ((xs.drop (xs.length - 20)).map BitVec.toInt) := by
  rcases lt_or_ge xs.length 20 with hlt | hge
  · rw [h.held_eq hlt, Nat.sub_eq_zero_of_le hlt.le, List.drop_zero]
  · have hfull : r.held = r.sample.toList.map BitVec.toInt := by
      rw [Rolling.held, h.count_eq, min_eq_right hge, List.take_of_length_le (Vector.length_toList).le]
    rw [hfull, h.sample_eq_rotate hge]
    exact (List.rotate_perm _ _).map _

/-- Settles O56, by induction on the pushes, newest last. -/
theorem heldSamplesAreTheLastTwenty : Obligations.HeldSamplesAreTheLastTwenty := by
  intro xs r0 r hnext hcount hr
  subst hr
  have hrecords := Rolling.records_foldl_push hnext hcount xs
  exact ⟨hrecords.count_eq, hrecords.held_eq, hrecords.held_perm⟩

/-! ## Mean and variance -/

/-- Settles O57: the count is the number of held samples, and a sum does not depend on the order of its terms. -/
theorem meanAndVarianceIgnoreTheOrder : Obligations.MeanAndVarianceIgnoreTheOrder := by
  intro r r' hperm
  have hcount : r.count.val = r'.count.val := by
    rw [← r.held_length, ← r'.held_length, hperm.length_eq]
  have hmean : r.mean = r'.mean := by
    rw [Rolling.mean, Rolling.mean, hcount, hperm.sum_eq]
  refine ⟨hmean, ?_⟩
  rw [Rolling.variance, Rolling.variance, hcount, hmean, (hperm.map _).sum_eq]

theorem Rolling.mean_of_count_zero {r : Rolling} (h : r.count.val = 0) : r.mean = 0 := if_pos h

theorem Rolling.variance_of_count_zero {r : Rolling} (h : r.count.val = 0) : r.variance = 0 := if_pos h

theorem Rolling.mean_of_count_pos {r : Rolling} (h : 0 < r.count.val) :
    r.mean = r.held.sum.tdiv (r.count.val : Int) := if_neg h.ne'

theorem Rolling.variance_of_count_pos {r : Rolling} (h : 0 < r.count.val) :
    r.variance = ((r.held.map fun x => (x - r.mean) ^ 2).sum).tdiv (r.count.val : Int) := if_neg h.ne'

theorem sum_map_sq_nonneg (xs : List Int) (m : Int) : 0 ≤ (xs.map fun x => (x - m) ^ 2).sum := by
  refine List.sum_nonneg fun y hy => ?_
  obtain ⟨x, -, rfl⟩ := List.mem_map.mp hy
  exact sq_nonneg _

/-- Division truncated toward zero leaves a remainder smaller than the divisor, of the dividend's sign. -/
theorem tdiv_remainder (a : Int) {n : Int} (hn : 0 < n) :
    ∃ k, a = a.tdiv n * n + k ∧ |k| < n ∧ (0 ≤ a → 0 ≤ k) ∧ (a ≤ 0 → k ≤ 0) := by
  refine ⟨a.tmod n, (Int.tdiv_mul_add_tmod a n).symm,
    abs_lt.mpr ⟨Int.lt_tmod_of_pos a hn, Int.tmod_lt_of_pos a hn⟩, Int.tmod_nonneg n, fun ha => ?_⟩
  have hneg : 0 ≤ (-a).tmod n := Int.tmod_nonneg n (by omega)
  rw [Int.neg_tmod] at hneg
  omega

/-- Settles O58: the remainders are those of division truncated toward zero, and a sum of squares is not negative. -/
theorem meanAndVarianceTruncate : Obligations.MeanAndVarianceTruncate := by
  intro r n q hn hq
  subst hn hq
  refine ⟨fun hzero => ?_, fun hpos => ?_⟩
  · have hcount : r.count.val = 0 := by exact_mod_cast hzero
    exact ⟨Rolling.mean_of_count_zero hcount, Rolling.variance_of_count_zero hcount⟩
  · have hcount : 0 < r.count.val := by exact_mod_cast hpos
    have hsum := tdiv_remainder r.held.sum hpos
    obtain ⟨k, heq, habs, hnonneg, -⟩ := tdiv_remainder (r.held.map fun x => (x - r.mean) ^ 2).sum hpos
    have hk := hnonneg (sum_map_sq_nonneg r.held r.mean)
    rw [← Rolling.mean_of_count_pos hcount] at hsum
    rw [← Rolling.variance_of_count_pos hcount] at heq
    rw [abs_lt] at habs
    exact ⟨hsum, by omega, by omega⟩

end Sys2Proof.Machine

/-! The consumer's turn and the moves no agent has (30_encoding.md R85, R92, 60_exceptions.md R191, R192). -/

namespace Sys2Proof.Machine

/-- A turn of the consumer taken by a producer is refused. -/
theorem runMove_consume_refused {a : Agent} (h : a ≠ .consumer) (s : State) :
    runMove (.consume a) s = .refused .contextViolation := if_neg h

/-- At a port other than its producer's an event word is refused. -/
theorem presentEvent_refused {a : Agent} {w : EventWord} {i : Instr} (hdec : decode (.event w) = .ok i)
    (hport : agentOf i ≠ a) (s : State) : presentEvent a w s = .refused .contextViolation := by
  have hword : decodeEvent w = .ok i := hdec
  simp only [presentEvent, hword, if_neg hport]

/-- An event word that decodes to no push faults, at every port. -/
theorem presentEvent_fault {w : EventWord} {e : DecodeError} (hdec : decode (.event w) = .error e) (a : Agent)
    (s : State) : presentEvent a w s = .fault .unreachableEncoding := by
  have hword : decodeEvent w = .error e := hdec
  simp only [presentEvent, hword]

/-- Settles O11: the consumer's turn is its iteration, and a scheduled move is refused or faults as the move does. -/
theorem stepsOfTheEnvironmentAndContexts : Obligations.StepsOfTheEnvironmentAndContexts := by
  refine fun s a w rest i => ⟨step_of_consumerTurn, fun hs ha => ?_, fun hs hdec hport => ?_, fun hs htag => ?_⟩
  · exact (step_of_schedule_cons hs).trans (runMove_consume_refused ha _)
  · exact (step_of_schedule_cons hs).trans (presentEvent_refused hdec hport _)
  · exact (step_of_schedule_cons hs).trans (presentEvent_fault (decode_event_of_tag3 htag) a _)

end Sys2Proof.Machine

/-! The halt (60_exceptions.md R185, R186, R187). -/

namespace Sys2Proof.Machine

/-! ## A halted consumer takes no step -/

/-- The catch-all is guarded on each of its two paths. -/
theorem exec_outOfSync_guarded (st : Stage) (x : Input) (s : State) :
    ∃ k, exec (.outOfSync st x) s = whenRunning s k := by
  simp only [exec, execOutOfSync]
  split_ifs <;> exact ⟨_, rfl⟩

/-- Every operation of the consumer is guarded by the halt (R186; log 10). -/
theorem exec_guarded {i : Instr} (h : agentOf i = .consumer) (s : State) : ∃ k, exec i s = whenRunning s k := by
  cases i with
  | pushSpi _ _ | pushDone _ | pushTimeout _ => cases h
  | outOfSync st x => exact exec_outOfSync_guarded st x s
  | _ => exact ⟨_, rfl⟩

/-- In a halted state every operation of the consumer faults. -/
theorem exec_of_halted {s : State} (hh : s.ctl.halted = true) {i : Instr} (h : agentOf i = .consumer) :
    exec i s = .fault .overflow := by
  obtain ⟨k, hk⟩ := exec_guarded h s
  rw [hk, whenRunning_of_halted hh]

/-- OVERFLOW, of code 3, is the one class a run does not recover from (R179). -/
theorem ErrorClass.recoverable_eq_false_iff (c : ErrorClass) : c.recoverable = false ↔ c.code = 3 := by
  cases c <;> decide

/-- In a halted state only a reset, a DMA write or an event at a port answers a next state. -/
theorem move_of_halted {s t : State} (hh : s.ctl.halted = true) (hst : step s = .next t) :
    s.resetNext ∨ (∃ o v rest, s.schedule = .dmaWrite o v :: rest) ∨ ∃ a w rest, s.schedule = .event a w :: rest := by
  obtain ⟨rest, hs, -⟩ | ⟨o, v, rest, hs, -⟩ | ⟨a, w, rest, e, hs, -⟩ | ⟨rest, -, hc⟩ := step_next hst
  · exact .inl ⟨rest, hs⟩
  · exact .inr (.inl ⟨o, v, rest, hs⟩)
  · exact .inr (.inr ⟨a, w, rest, hs⟩)
  · obtain ⟨hr, -⟩ := execConsumerStep_next hc
    exact absurd (hh.symm.trans hr) (by decide)

/-- Settles O22: the guard of every consumer operation faults, and the moves that remain beside a reset write no
element of the consumer. -/
theorem haltIsAbsorbing : Obligations.HaltIsAbsorbing := by
  refine fun s hh => ⟨fun i => exec_of_halted hh, rfl, ErrorClass.recoverable_eq_false_iff, fun t hst => ?_⟩
  obtain ⟨hevent, -, hdma⟩ := eachElementHasOneWritingAgent s t hst
  obtain hreset | ⟨o, v, rest, hs⟩ | ⟨a, w, rest, hs⟩ := move_of_halted hh hst
  · exact .inl hreset
  · obtain ⟨hqueue, hend, hparams, hfsm, hra1, hra2, hctl, hout⟩ := hdma o v rest hs
    exact .inr ⟨hctl, congrArg Queue.tail hqueue, hend, hparams, hfsm, hra1, hra2, hout⟩
  · obtain ⟨htail, hend, hparams, hfsm, hra1, hra2, hctl, hout⟩ := hevent a w rest hs
    exact .inr ⟨hctl, htail, hend, hparams, hfsm, hra1, hra2, hout⟩

/-! ## What clears the halt and the overflow flag -/

/-- No move but a reset clears the overflow flag. -/
theorem step_overflow {s t : State} (hst : step s = .next t) (hreset : ¬ s.resetNext)
    (ho : s.queue.overflow = true) : t.queue.overflow = true := by
  obtain ⟨rest, hs, -⟩ | ⟨o, v, rest, -, rfl⟩ | ⟨a, w, rest, e, -, -, rfl⟩ | ⟨rest, -, hc⟩ := step_next hst
  · exact absurd ⟨rest, hs⟩ hreset
  · exact ho
  · exact Queue.overflow_push e ho
  · obtain ⟨-, -, hover⟩ := execConsumerStep_queue_frame hc
    exact hover.trans ho

/-- No move but a reset leaves the halt, for a halted consumer's control bits stay as they are. -/
theorem step_halted {s t : State} (hst : step s = .next t) (hreset : ¬ s.resetNext) (hh : s.ctl.halted = true) :
    t.ctl.halted = true := by
  obtain ⟨-, -, -, habsorbed⟩ := haltIsAbsorbing s hh
  obtain ⟨hctl, -⟩ := (habsorbed t hst).resolve_left hreset
  rw [hctl, hh]

/-- An event at a port is no reset. -/
theorem not_resetNext_of_event {s : State} {a : Agent} {w : EventWord} {rest : List Move}
    (h : s.schedule = .event a w :: rest) : ¬ s.resetNext := by
  rintro ⟨rest', hs⟩
  rw [h] at hs
  cases hs

/-- With the overflow flag already set, an event at a port changes nothing that is observed, whether it fits or is
lost. -/
theorem observe_of_event {s t : State} (hst : step s = .next t) (ho : s.queue.overflow = true) {a : Agent}
    {w : EventWord} {rest : List Move} (hs : s.schedule = .event a w :: rest) : t.observe = s.observe := by
  obtain ⟨hevent, -, -⟩ := eachElementHasOneWritingAgent s t hst
  obtain ⟨-, -, -, -, -, -, hctl, hout⟩ := hevent a w rest hs
  have hover : t.queue.overflow = s.queue.overflow :=
    (step_overflow hst (not_resetNext_of_event hs) ho).trans ho.symm
  simp only [State.observe, State.haltPort, State.overflowPort, hctl, hout, hover]

/-- Settles O23: both flags survive every other move, a reset clears them, and an event at a port writes only the
queue, whose flag is set already. -/
theorem overflowFlagIsSticky : Obligations.OverflowFlagIsSticky := by
  refine fun s t hst => ⟨fun ho hreset => step_overflow hst hreset ho,
    fun hh hreset => step_halted hst hreset hh, ?_, ?_⟩
  · rintro ⟨rest, hs⟩
    rw [step_of_schedule_cons hs] at hst
    cases hst
    exact ⟨rfl, rfl⟩
  · rintro - ho ⟨a, w, rest, hs⟩
    exact observe_of_event hst ho hs

end Sys2Proof.Machine

/-! The words of the spec's vectors (95_test_vectors.md V-E1, V-E2, V-E3, S4, S6, V-D8, V-D12, V-W11, V-F13). -/

namespace Sys2Proof

/-- A transaction below 128 bytes is decoded by its own length and its first two bytes (R89). -/
theorem decode_txn_short {bytes : List Byte} (h : bytes.length < 128) (ts : U32) :
    decode (.txn ts bytes) = .ok (decodeTxn ts (BitVec.ofNat 7 bytes.length) (bytes.getD 0 0) (bytes.getD 1 0)) :=
  congrArg Except.ok (decodeBytes_short h ts)

/-- Settles O7: each word is put together from its fields, and the decoder's answer for such a word names the
operation. -/
theorem specWordsDecode : Obligations.SpecWordsDecode := by
  refine ⟨?spi, ?done, ?timeout, ?opmode, ?fifoRead, ?badlen, ?regRead, ?modemConfig2, ?listed, ?unlisted⟩
  case spi => exact decode_mkEventWord_spi 2 0
  case done => exact decode_mkEventWord_done 0 25856
  case timeout => exact decode_mkEventWord_timeout 0 1125000
  case opmode => exact decode_encodeWrite 7 0x01 0x03
  case fifoRead =>
    rw [decode_txn_short (by decide), decodeTxn_of_zeroByte (by decide) (by decide)]
    rfl
  case badlen =>
    rw [decode_txn_short (by decide), decodeTxn_of_writeFlag (by decide) (by decide), if_neg (by decide)]
    rfl
  case regRead =>
    rw [decode_txn_short (by decide), decodeTxn_of_readFlag (by decide) (by decide) (by decide)]
    rfl
  case modemConfig2 => exact decode_encodeWrite 7 0x1E 0xC4
  case listed => exact decode_mkKey (by decide) .inRx2 .timeout 7
  case unlisted => exact decode_mkKey_outOfSync (by decide) (by decide) (st := .transmitting) (i := .txStart) 7

end Sys2Proof

/-! The reset event (70_reset_and_hazards.md R200, R201, 10_state.md R45). -/

namespace Sys2Proof.Machine

section
variable (s : State)

@[simp] theorem resetBlock_queue : (resetBlock s).queue = Queue.reset := rfl
@[simp] theorem resetBlock_lastEnd : (resetBlock s).lastEnd = 0 := rfl
@[simp] theorem resetBlock_params : (resetBlock s).params = Params.reset := rfl
@[simp] theorem resetBlock_fsm : (resetBlock s).fsm = Fsm.reset := rfl
@[simp] theorem resetBlock_ra1 : (resetBlock s).ra1 = Rolling.reset := rfl
@[simp] theorem resetBlock_ra2 : (resetBlock s).ra2 = Rolling.reset := rfl
@[simp] theorem resetBlock_ctl : (resetBlock s).ctl = Control.reset := rfl
@[simp] theorem resetBlock_out : (resetBlock s).out = [] := rfl
@[simp] theorem resetBlock_cfg : (resetBlock s).cfg = s.cfg := rfl
@[simp] theorem resetBlock_schedule : (resetBlock s).schedule = s.schedule := rfl

end

/-- A scheduled reset completes from any state (R200). -/
theorem step_of_reset {s : State} {rest : List Move} (h : s.schedule = .reset :: rest) :
    step s = .next (resetBlock (s.withSchedule rest)) := step_of_schedule_cons h

/-- Settles O50: the reset puts a component's reset value in place of each component, whatever stood there. -/
theorem resetPutsEveryElementToItsResetValue : Obligations.ResetPutsEveryElementToItsResetValue := by
  intro s rest h
  refine ⟨resetBlock (s.withSchedule rest), step_of_reset h, ?_⟩
  simp [Queue.reset, Params.reset, Params.bw, Config.bwTable, Fsm.reset, Rolling.reset, Control.reset]

end Sys2Proof.Machine
